-- ==== Sys2Proof/Word.lean ====
section
/-! DEFINITION. The word types of DEFISH-CORE (spec/00_scope.md R6, R10; spec/10_state.md R21; spec/30_encoding.md R90). -/

namespace Sys2Proof

/-- An 8-bit byte: a symbol, a stream byte, a byte of ARCH_MEM. -/
abbrev Byte := BitVec 8

/-- The width of every control and status register (R21). -/
abbrev Word := BitVec 32

/-- One command word (R90). -/
abbrev CommandWord := BitVec 64

/-- A bit string: a list of bits whose element 0 is the first bit (R11). -/
abbrev Bits := List Bool

end Sys2Proof
end

