-- ==== Sys2Proof/Syntax.lean ====
section
/-! DEFINITION. The commands of DEFISH-CORE: one constructor per row of spec/opcode_table.json (spec/30_encoding.md R94). -/

namespace Sys2Proof

/-- A decoded command, with the operand fields its row of R94 uses. -/
inductive Instr where
  /-- NOP (R380). -/
  | nop
  /-- RESET (R381). -/
  | reset
  /-- CSR_WR n, v (R382). -/
  | csrWr (n : Byte) (v : Word)
  /-- CSR_RD n (R383). -/
  | csrRd (n : Byte)
  /-- BB_PUTBYTE v (R146). -/
  | bbPutbyte (v : Byte)
  /-- BB_PUTBIT a, the operand byte of which only 0 and 1 are legal values (R147). -/
  | bbPutbit (a : Byte)
  /-- BB_FLUSH (R148). -/
  | bbFlush
  /-- BB_GETBIT (R149). -/
  | bbGetbit
  /-- BB_GETBYTE (R150). -/
  | bbGetbyte
  /-- BB_AVAIL t (R151). -/
  | bbAvail (t : Word)
  /-- BB_CLEAR (R152). -/
  | bbClear
  /-- HUF_ENCBLK (R180). -/
  | hufEncblk
  /-- HUF_DECBLK (R181). -/
  | hufDecblk
  /-- HUF_ENC (R182). -/
  | hufEnc
  /-- HUF_DEC (R183). -/
  | hufDec
  /-- HUF_TBLRD sym, w (R185). -/
  | hufTblrd (sym : Byte) (w : Word)
  /-- LZ_ENC (R230). -/
  | lzEnc
  /-- LZ_DEC (R231). -/
  | lzDec
  /-- LZREC_PUT d, imm (R280): the item or length is imm[7:0], and imm[31:8] must be zero. -/
  | lzrecPut (d : Byte) (imm : Word)
  /-- LZREC_GET (R281). -/
  | lzrecGet
  /-- CIPH_ENC (R303). -/
  | ciphEnc
  /-- CIPH_DEC (R304). -/
  | ciphDec
  /-- ARC_BEGIN (R340). -/
  | arcBegin
  /-- ARC_PUTFILE (R341). -/
  | arcPutfile
  /-- ARC_PUTTREE (R342). -/
  | arcPuttree
  /-- ARC_LOAD (R343). -/
  | arcLoad
  /-- ARC_OPEN (R344). -/
  | arcOpen
  /-- ARC_GETTREE (R345). -/
  | arcGettree
  /-- ARC_GETFILE (R346). -/
  | arcGetfile
  /-- ARC_DUMP (R347). -/
  | arcDump
  deriving DecidableEq, Repr

end Sys2Proof
end

