-- ==== Sys2Proof/WellFormed.lean ====
section
/-! DEFINITION. Which terms of `Instr` a command word can stand for (spec/30_encoding.md R91, R94). -/

namespace Sys2Proof

/-- The one operand field whose type is wider than its encoding: LZREC_PUT's IMM, of which bits 31:8
must be zero (R94). Every other field's type holds exactly the values its encoding admits. -/
def Instr.wellFormed : Instr → Bool
  | .lzrecPut _ imm => decide (imm.toNat < 256)
  | .nop | .reset | .csrWr _ _ | .csrRd _ => true
  | .bbPutbyte _ | .bbPutbit _ | .bbFlush | .bbGetbit | .bbGetbyte | .bbAvail _ | .bbClear => true
  | .hufEncblk | .hufDecblk | .hufEnc | .hufDec | .hufTblrd _ _ => true
  | .lzEnc | .lzDec | .lzrecGet | .ciphEnc | .ciphDec => true
  | .arcBegin | .arcPutfile | .arcPuttree | .arcLoad => true
  | .arcOpen | .arcGettree | .arcGetfile | .arcDump => true

end Sys2Proof
end

