-- ==== Sys2Proof/Decode.lean ====
section
/-! DEFINITION. Decoding and encoding of command words (spec/30_encoding.md R90 to R95). -/

namespace Sys2Proof

/-- Which operand fields a row of R94 uses; every bit of an unused field must be zero (R91). -/
inductive Shape where
  /-- neither A nor IMM -/
  | plain
  /-- A only -/
  | a
  /-- IMM only, all 32 bits -/
  | imm
  /-- A and all 32 bits of IMM -/
  | aImm
  /-- A and IMM[7:0] -/
  | aImm8
  deriving DecidableEq, Repr

/-- Why a word is no command; both raise ILLEGAL_CMD (R92). -/
inductive DecodeError where
  /-- OPC is not an assigned opcode (R92 (1), R93). -/
  | unassignedOpcode (opc : Byte)
  /-- A bit that R91 requires to be zero is one (R92 (2)). -/
  | mustBeZero (opc : Byte)
  deriving DecidableEq, Repr

/-- One row of the opcode map (R94). -/
structure OpcodeRow where
  opc : Byte
  shape : Shape
  make : Byte → Word → Instr

/-- The opcode map (R94), row by row. -/
def opcodeMap : List OpcodeRow := [
  ⟨0x00, .plain, fun _ _ => .nop⟩,
  ⟨0x01, .plain, fun _ _ => .reset⟩,
  ⟨0x02, .aImm, fun a imm => .csrWr a imm⟩,
  ⟨0x03, .a, fun a _ => .csrRd a⟩,
  ⟨0x10, .a, fun a _ => .bbPutbyte a⟩,
  ⟨0x11, .a, fun a _ => .bbPutbit a⟩,
  ⟨0x12, .plain, fun _ _ => .bbFlush⟩,
  ⟨0x13, .plain, fun _ _ => .bbGetbit⟩,
  ⟨0x14, .plain, fun _ _ => .bbGetbyte⟩,
  ⟨0x15, .imm, fun _ imm => .bbAvail imm⟩,
  ⟨0x16, .plain, fun _ _ => .bbClear⟩,
  ⟨0x20, .plain, fun _ _ => .hufEncblk⟩,
  ⟨0x21, .plain, fun _ _ => .hufDecblk⟩,
  ⟨0x22, .plain, fun _ _ => .hufEnc⟩,
  ⟨0x23, .plain, fun _ _ => .hufDec⟩,
  ⟨0x24, .aImm, fun a imm => .hufTblrd a imm⟩,
  ⟨0x30, .plain, fun _ _ => .lzEnc⟩,
  ⟨0x31, .plain, fun _ _ => .lzDec⟩,
  ⟨0x32, .aImm8, fun a imm => .lzrecPut a imm⟩,
  ⟨0x33, .plain, fun _ _ => .lzrecGet⟩,
  ⟨0x40, .plain, fun _ _ => .ciphEnc⟩,
  ⟨0x41, .plain, fun _ _ => .ciphDec⟩,
  ⟨0x50, .plain, fun _ _ => .arcBegin⟩,
  ⟨0x51, .plain, fun _ _ => .arcPutfile⟩,
  ⟨0x52, .plain, fun _ _ => .arcPuttree⟩,
  ⟨0x53, .plain, fun _ _ => .arcLoad⟩,
  ⟨0x54, .plain, fun _ _ => .arcOpen⟩,
  ⟨0x55, .plain, fun _ _ => .arcGettree⟩,
  ⟨0x56, .plain, fun _ _ => .arcGetfile⟩,
  ⟨0x57, .plain, fun _ _ => .arcDump⟩]

/-- OPC, bits 7:0 (R90). -/
def fieldOpc (w : CommandWord) : Byte := w.extractLsb' 0 8

/-- A, bits 15:8 (R90). -/
def fieldA (w : CommandWord) : Byte := w.extractLsb' 8 8

/-- RSV, bits 31:16 (R90). -/
def fieldRsv (w : CommandWord) : BitVec 16 := w.extractLsb' 16 16

/-- IMM, bits 63:32 (R90). -/
def fieldImm (w : CommandWord) : Word := w.extractLsb' 32 32

/-- The must-be-zero bits of A and IMM are zero (R91). -/
def Shape.admits (sh : Shape) (a : Byte) (imm : Word) : Bool :=
  match sh with
  | .plain => a == 0 && imm == 0
  | .a => imm == 0
  | .imm => a == 0
  | .aImm => true
  | .aImm8 => decide (imm.toNat < 256)

/-- Decoding, total over all words, in the order of R92. -/
def decode (w : CommandWord) : Except DecodeError Instr :=
  match opcodeMap.find? (fun row => row.opc == fieldOpc w) with
  | none => .error (.unassignedOpcode (fieldOpc w))
  | some row =>
    if fieldRsv w == 0 && row.shape.admits (fieldA w) (fieldImm w) then
      .ok (row.make (fieldA w) (fieldImm w))
    else .error (.mustBeZero (fieldOpc w))

/-- The opcode of a command (R94). -/
def Instr.opcode : Instr → Byte
  | .nop => 0x00
  | .reset => 0x01
  | .csrWr _ _ => 0x02
  | .csrRd _ => 0x03
  | .bbPutbyte _ => 0x10
  | .bbPutbit _ => 0x11
  | .bbFlush => 0x12
  | .bbGetbit => 0x13
  | .bbGetbyte => 0x14
  | .bbAvail _ => 0x15
  | .bbClear => 0x16
  | .hufEncblk => 0x20
  | .hufDecblk => 0x21
  | .hufEnc => 0x22
  | .hufDec => 0x23
  | .hufTblrd _ _ => 0x24
  | .lzEnc => 0x30
  | .lzDec => 0x31
  | .lzrecPut _ _ => 0x32
  | .lzrecGet => 0x33
  | .ciphEnc => 0x40
  | .ciphDec => 0x41
  | .arcBegin => 0x50
  | .arcPutfile => 0x51
  | .arcPuttree => 0x52
  | .arcLoad => 0x53
  | .arcOpen => 0x54
  | .arcGettree => 0x55
  | .arcGetfile => 0x56
  | .arcDump => 0x57

/-- The A operand of a command, 0 where R94 says the field must be zero. -/
def Instr.operandA : Instr → Byte
  | .csrWr n _ => n
  | .csrRd n => n
  | .bbPutbyte v => v
  | .bbPutbit a => a
  | .hufTblrd sym _ => sym
  | .lzrecPut d _ => d
  | .nop | .reset | .bbFlush | .bbGetbit | .bbGetbyte | .bbAvail _ | .bbClear => 0
  | .hufEncblk | .hufDecblk | .hufEnc | .hufDec | .lzEnc | .lzDec | .lzrecGet => 0
  | .ciphEnc | .ciphDec | .arcBegin | .arcPutfile | .arcPuttree | .arcLoad => 0
  | .arcOpen | .arcGettree | .arcGetfile | .arcDump => 0

/-- The IMM operand of a command, 0 where R94 says the field must be zero. -/
def Instr.operandImm : Instr → Word
  | .csrWr _ v => v
  | .bbAvail t => t
  | .hufTblrd _ w => w
  | .lzrecPut _ imm => imm
  | .nop | .reset | .csrRd _ | .bbPutbyte _ | .bbPutbit _ => 0
  | .bbFlush | .bbGetbit | .bbGetbyte | .bbClear => 0
  | .hufEncblk | .hufDecblk | .hufEnc | .hufDec | .lzEnc | .lzDec | .lzrecGet => 0
  | .ciphEnc | .ciphDec | .arcBegin | .arcPutfile | .arcPuttree | .arcLoad => 0
  | .arcOpen | .arcGettree | .arcGetfile | .arcDump => 0

/-- The word of a command: `OPC + A * 2^8 + IMM * 2^32` (R95). -/
def encode (i : Instr) : CommandWord := i.operandImm ++ (0 : BitVec 16) ++ i.operandA ++ i.opcode

/-- The command that a row's word of `nbits` bits stands for, every bit above them 0. A command word is a value
without a byte order (R65), so it is given to the decoder as it is. -/
def decodeTableWord (nbits w : Nat) : Option Instr :=
  match decode (BitVec.ofNat 64 (w % 2 ^ nbits)) with
  | .ok i => some i
  | .error _ => none

end Sys2Proof
end

