-- ==== Sys2Proof/Machine/Bits.lean ====
section
/-! DEFINITION. Bit packing (spec/40_bitbuffer.md R140) and the big-endian 4-byte fields (spec/00_scope.md R10,
spec/20_memory.md R63, R64). -/

namespace Sys2Proof.Machine

open Sys2Proof

/-- `ceil(n / 8)` (R10). -/
def ceil8 (n : Nat) : Nat := (n + 7) / 8

/-- The number whose bit k is element k of a bit string. -/
def bitsNat : Bits → Nat
  | [] => 0
  | b :: bs => b.toNat + 2 * bitsNat bs

/-- Pack a bit string after `k` bits of a group already hold the value `acc`: the next bit goes to bit `k`, and
the eighth completes the byte (R140, R142). -/
def packFrom (acc : Byte) (k : Nat) : Bits → List Byte
  | [] => if k = 0 then [] else [acc]
  | b :: bs =>
    let grown := acc ||| ((if b then 1#8 else 0#8) <<< k)
    if k = 7 then grown :: packFrom 0 0 bs else packFrom grown (k + 1) bs

/-- `pack` of R140: least significant bit first, the last byte's unused high bits zero. -/
def pack (bits : Bits) : List Byte := packFrom 0 0 bits

/-- The eight bits of a byte, bit 0 first. -/
def byteBits (b : Byte) : Bits :=
  [b.getLsbD 0, b.getLsbD 1, b.getLsbD 2, b.getLsbD 3, b.getLsbD 4, b.getLsbD 5, b.getLsbD 6, b.getLsbD 7]

/-- `unpack` of R140. -/
def unpack : List Byte → Bits
  | [] => []
  | b :: bs => byteBits b ++ unpack bs

/-- `filler` of R140. -/
def filler (n : Nat) : Nat := (8 - n % 8) % 8

/-- `BE32` of R10. -/
def be32 (x : Nat) : List Byte :=
  [BitVec.ofNat 8 (x / 2 ^ 24), BitVec.ofNat 8 (x / 2 ^ 16), BitVec.ofNat 8 (x / 2 ^ 8), BitVec.ofNat 8 x]

/-- `readBE32` of R10, of a list of four bytes: the first is the most significant. -/
def readBE32 (bs : List Byte) : Nat := bs.foldl (fun n b => n * 2 ^ 8 + b.toNat) 0

end Sys2Proof.Machine
end

