-- ==== Sys2Proof/Config.lean ====
section
/-! DEFINITION. The build-time parameters of spec/00_scope.md R8 and R9, which are arguments of the model and
not state, and the free values of spec/60_exceptions.md R393 and spec/93_implementation_defined.md. What the
spec leaves OPEN is an opaque constant: nothing can be proved of its value. -/

namespace Sys2Proof

/-- P_LEAF_ORDER (R8, R171): the insertion order of Huffman leaves. -/
inductive LeafOrder where
  | firstOccurrence
  | ascendingSymbol
  deriving DecidableEq, Repr

/-- The parameters a model of DEFISH-CORE takes (R8), and the values R393 lets be anything. -/
structure Params where
  /-- P_BB_CAPACITY: completed bytes the bit buffer can hold. -/
  bbCapacity : Nat
  /-- P_ARCH_SIZE: bytes of ARCH_MEM. -/
  archSize : Nat
  /-- P_LEAF_ORDER. -/
  leafOrder : LeafOrder
  /-- P_LZ_OVERLAP. -/
  lzOverlap : Bool
  /-- P_DATA_LEN_INCLUDES_FILLER. -/
  dataLenIncludesFiller : Bool
  /-- KS (R9): the shift of byte `i` under a seed, already reduced modulo 256. -/
  ks : BitVec 64 → Nat → Byte
  /-- R393, OUT: the bytes that the n-th such fault appends. -/
  faultOut : Nat → List Byte
  /-- R393, IN: how many tokens the n-th such fault removes (at most up to and including the first EOS). -/
  faultTake : Nat → Nat
  /-- R393, RES0..RES3: the value the n-th such fault leaves in RES k. -/
  faultRes : Nat → Fin 4 → Word
  /-- R393, ARCH_MEM: the byte the n-th such fault leaves at an address of the command's write range. -/
  faultArch : Nat → Nat → Byte

/-- The ranges R8 gives for the open sizes. -/
structure Params.Valid (p : Params) : Prop where
  bbCapacity_pos : 1 ≤ p.bbCapacity
  bbCapacity_le : p.bbCapacity ≤ 2 ^ 28
  archSize_ge : 9 ≤ p.archSize
  archSize_lt : p.archSize < 2 ^ 32

/-- P_BB_CAPACITY - 1, of which R8 says only that P_BB_CAPACITY is in 1 .. 2^28 (log entry 5). -/
opaque Config.bbCapacityPred : Fin 268435456

/-- P_ARCH_SIZE - 9, of which R8 says only that P_ARCH_SIZE is in 9 .. 2^32 - 1 (log entry 5). -/
opaque Config.archSizeOverNine : Fin 4294967287

/-- KS, of which R9 says only that it is a function of the seed and the index (log entry 5). -/
opaque Config.ks : BitVec 64 → Nat → Byte

/-- Free value of R393 (log entry 7). -/
opaque Config.faultOut : Nat → List Byte

/-- Free value of R393 (log entry 7). -/
opaque Config.faultTake : Nat → Nat

/-- Free value of R393 (log entry 7). -/
opaque Config.faultRes : Nat → Fin 4 → Word

/-- Free value of R393 (log entry 7). -/
opaque Config.faultArch : Nat → Nat → Byte

/-- The parameters of this hardware (R8, column "this hardware's value"). -/
def Params.hw : Params where
  bbCapacity := Config.bbCapacityPred.val + 1
  archSize := Config.archSizeOverNine.val + 9
  leafOrder := .firstOccurrence
  lzOverlap := false
  dataLenIncludesFiller := false
  ks := Config.ks
  faultOut := Config.faultOut
  faultTake := Config.faultTake
  faultRes := Config.faultRes
  faultArch := Config.faultArch

end Sys2Proof
end

