-- ==== Sys2Proof/Machine/State.lean ====
section
/-! DEFINITION. The architectural state of DEFISH-CORE (spec/10_state.md R20 to R46), the reasons a step can stop,
and the state after power-on reset (spec/70_reset_and_hazards.md R430). -/

namespace Sys2Proof.Machine

open Sys2Proof

/-- An element of the IN stream (R38). -/
inductive Token where
  | byte (b : Byte)
  | eos
  deriving DecidableEq, Repr

/-- What the host can do to the block between commands or during a hold (R62, R430). A CSR read has no effect on
the block (R62 b): it is the function `State.hostRead`. -/
inductive HostAction where
  /-- Write a command word to the command port, once the previous command has completed or faulted (R62 a, R90). -/
  | command (w : CommandWord)
  /-- Append tokens to the tail of IN (R62 c, R77). -/
  | append (ts : List Token)
  /-- Remove `n` bytes from the head of OUT (R62 d, R78). -/
  | take (n : Nat)
  /-- Apply power-on reset (R430). -/
  | powerOn
  deriving DecidableEq, Repr

/-- The faults a command raises (R391). Raising one is a next state of the machine (R390), not a stop. -/
inductive FaultCode where
  | illegalCmd
  | badOperand
  | badConfig
  | bbMixed
  | bbEmpty
  | bbFull
  | hufTruncated
  | hufBadTable
  | hufBadData
  | hufCodeTooLong
  | lzTruncated
  | lzBadCopy
  | arcBadHeader
  | arcBadRange
  | arcFull
  | arcSizeMismatch
  | arcSequence
  deriving DecidableEq, Repr

/-- The bit buffer (R41). -/
structure BitBuffer where
  /-- the FIFO of completed bytes, oldest first -/
  q : List Byte
  /-- how many bits of the head byte have been popped -/
  r : Fin 8
  /-- the pending partial group -/
  pv : Byte
  /-- how many bits are pending -/
  pc : Fin 8
  deriving DecidableEq, Repr

/-- The empty bit buffer (R41). -/
def BitBuffer.empty : BitBuffer := { q := [], r := 0, pv := 0, pc := 0 }

/-- The stored control and status registers (R22). BB_BITS, BB_PEND and HUF_NSYM are views (R36, R37). -/
structure CsrFile where
  status : Word
  res0 : Word
  res1 : Word
  res2 : Word
  res3 : Word
  arg0 : Word
  arg1 : Word
  arg2 : Word
  arg3 : Word
  hufBlockSize : Word
  hufMaxCodeLen : Word
  lzWindow : Word
  lzMaxMatch : Word
  flags : Word
  seedLo : Word
  seedHi : Word
  quotaLo : Word
  quotaHi : Word
  archLen : Word
  arcFlags : Word
  treePtr : Word
  deriving DecidableEq, Repr

/-- Every stored CSR at its reset value (R22). -/
def CsrFile.zero : CsrFile where
  status := 0
  res0 := 0
  res1 := 0
  res2 := 0
  res3 := 0
  arg0 := 0
  arg1 := 0
  arg2 := 0
  arg3 := 0
  hufBlockSize := 0
  hufMaxCodeLen := 0
  lzWindow := 0
  lzMaxMatch := 0
  flags := 0
  seedLo := 0
  seedHi := 0
  quotaLo := 0
  quotaHi := 0
  archLen := 0
  arcFlags := 0
  treePtr := 0

/-- ARCH_MEM (R40): the bytes that have been written, addresses strictly rising. An unlisted address has no
value (log entry 9). -/
abbrev Mem := List Host.Cell

/-- SYMTAB (R42): a partial map from symbol to code, symbols strictly rising. -/
abbrev Symtab := List (Byte × Bits)

/-- The state: the tuple of R20, and then the command port, the host and two counters. -/
structure State where
  csr : CsrFile
  /-- IN (R38), head first -/
  inq : List Token
  /-- OUT (R39), head first -/
  outq : List Byte
  /-- ARCH_MEM (R40) -/
  arch : Mem
  /-- the bit buffer (R41) -/
  bb : BitBuffer
  /-- SYMTAB (R42) -/
  symtab : Symtab
  /-- the command word on the command port that has not completed yet (R62 a, R77, R90) -/
  port : Option CommandWord
  /-- the MODEL's field: what the host does next, oldest first (R62, log entry 1) -/
  hostq : List HostAction
  /-- how many commands have completed or faulted (R45, log entry 2) -/
  retired : Nat
  /-- the MODEL's field: how many times the free values of R393 have been used (log entry 7) -/
  choice : Nat
  deriving DecidableEq, Repr

/-- Why the MODEL stops. Neither reason is a fault of the hardware, and R61 says that neither access ever happens. -/
inductive Fault where
  /-- A read of ARCH_MEM at or above ARCH_LEN, raised by `State.memRead`. R61: no such read ever happens.
  Safe: the model stops where the spec gives no value (log entry 10). -/
  | archBeyondLength
  /-- A read of a byte of ARCH_MEM below ARCH_LEN that nothing has written, raised by `State.memRead`. R431: never.
  Safe: the model stops where the spec gives no value (log entry 9). -/
  | archUnwritten
  deriving DecidableEq, Repr

/-- Why the model has no meaning for an instruction. -/
inductive Refusal where
  /-- `exec` has no meaning for this row of spec/opcode_table.json. Safe: the model stops. No arm answers it. -/
  | notModelled (mnemonic : String)
  deriving DecidableEq, Repr

/-- What a command answers. -/
abbrev Result := Host.Outcome State Fault Refusal

/-- The machine right after power-on reset (R430), with no host action to come. -/
def State.reset : State where
  csr := CsrFile.zero
  inq := []
  outq := []
  arch := []
  bb := BitBuffer.empty
  symtab := []
  port := none
  hostq := []
  retired := 0
  choice := 0

end Sys2Proof.Machine
end

