-- ==== Sys2Proof/Machine/Flags.lean ====
section
/-! DEFINITION. The fields of STATUS and how they are set and cleared (spec/10_state.md R23), and the fault codes
(spec/60_exceptions.md R391). STATUS holds every flag the spec has (R46). -/

namespace Sys2Proof.Machine

open Sys2Proof

/-- The code recorded in FAULT_CODE (R391). -/
def FaultCode.code : FaultCode → Byte
  | .illegalCmd => 0x01
  | .badOperand => 0x02
  | .badConfig => 0x03
  | .bbMixed => 0x10
  | .bbEmpty => 0x11
  | .bbFull => 0x12
  | .hufTruncated => 0x20
  | .hufBadTable => 0x21
  | .hufBadData => 0x22
  | .hufCodeTooLong => 0x23
  | .lzTruncated => 0x30
  | .lzBadCopy => 0x31
  | .arcBadHeader => 0x40
  | .arcBadRange => 0x41
  | .arcFull => 0x42
  | .arcSizeMismatch => 0x43
  | .arcSequence => 0x44

/-- STATUS.FAULT, bit 0 (R23). -/
def statusFault (st : Word) : Bool := st.getLsbD 0

/-- STATUS.QEXH, bit 1 (R23). -/
def statusQexh (st : Word) : Bool := st.getLsbD 1

/-- STATUS.ARC_W, bit 2 (R23). -/
def statusArcW (st : Word) : Bool := st.getLsbD 2

/-- STATUS.ARC_R, bit 3 (R23). -/
def statusArcR (st : Word) : Bool := st.getLsbD 3

/-- STATUS.FAULT_CODE, bits 15:8 (R23). -/
def statusFaultCode (st : Word) : Byte := st.extractLsb' 8 8

/-- Write one bit of STATUS. -/
def statusPut (k : Nat) (b : Bool) (st : Word) : Word :=
  if b then st ||| (1#32 <<< k) else st &&& ~~~(1#32 <<< k)

/-- STATUS.QEXH <- b. -/
def statusPutQexh (b : Bool) (st : Word) : Word := statusPut 1 b st

/-- STATUS.ARC_W <- b. -/
def statusPutArcW (b : Bool) (st : Word) : Word := statusPut 2 b st

/-- STATUS.ARC_R <- b. -/
def statusPutArcR (b : Bool) (st : Word) : Word := statusPut 3 b st

/-- STATUS.FAULT <- 1 and STATUS.FAULT_CODE <- c (R390). -/
def statusPutFault (c : Byte) (st : Word) : Word :=
  (st &&& ~~~0xFF00#32) ||| (c.setWidth 32 <<< 8) ||| 1#32

end Sys2Proof.Machine
end

