-- ==== Sys2Proof/Machine/Operands.lean ====
section
/-! DEFINITION. Where a command's operands come from: the CSR file by number (spec/10_state.md R21, R22), the
64-bit pairs held in it (R24, R31, R32), the configuration checks at use (R26 to R30), and the tokens of the IN
stream (spec/20_memory.md R76, R77). -/

namespace Sys2Proof.Machine

open Sys2Proof

/-- The assigned control and status registers (R22). -/
inductive Csr where
  | status
  | res0
  | res1
  | res2
  | res3
  | arg0
  | arg1
  | arg2
  | arg3
  | hufBlockSize
  | hufMaxCodeLen
  | lzWindow
  | lzMaxMatch
  | flags
  | seedLo
  | seedHi
  | quotaLo
  | quotaHi
  | archLen
  | arcFlags
  | treePtr
  | bbBits
  | bbPend
  | hufNsym
  deriving DecidableEq, Repr

/-- The number of a CSR (R22, column n). -/
def Csr.number : Csr → Byte
  | .status => 0x00
  | .res0 => 0x01
  | .res1 => 0x02
  | .res2 => 0x03
  | .res3 => 0x04
  | .arg0 => 0x08
  | .arg1 => 0x09
  | .arg2 => 0x0A
  | .arg3 => 0x0B
  | .hufBlockSize => 0x10
  | .hufMaxCodeLen => 0x11
  | .lzWindow => 0x12
  | .lzMaxMatch => 0x13
  | .flags => 0x18
  | .seedLo => 0x19
  | .seedHi => 0x1A
  | .quotaLo => 0x1C
  | .quotaHi => 0x1D
  | .archLen => 0x20
  | .arcFlags => 0x21
  | .treePtr => 0x22
  | .bbBits => 0x28
  | .bbPend => 0x29
  | .hufNsym => 0x30

/-- Every assigned CSR, in the order of R22. -/
def csrMap : List Csr := [
  .status, .res0, .res1, .res2, .res3, .arg0, .arg1, .arg2, .arg3,
  .hufBlockSize, .hufMaxCodeLen, .lzWindow, .lzMaxMatch, .flags, .seedLo, .seedHi,
  .quotaLo, .quotaHi, .archLen, .arcFlags, .treePtr, .bbBits, .bbPend, .hufNsym]

/-- The CSR of a number; none where the number is unassigned (R21). -/
def csrOf (n : Byte) : Option Csr := csrMap.find? (fun c => c.number == n)

/-- Access kind RW (R22): CSR_WR may write it. -/
def Csr.writable : Csr → Bool
  | .arg0 | .arg1 | .arg2 | .arg3 => true
  | .hufBlockSize | .hufMaxCodeLen | .lzWindow | .lzMaxMatch => true
  | .flags | .seedLo | .seedHi | .quotaLo | .quotaHi => true
  | .status | .res0 | .res1 | .res2 | .res3 => false
  | .archLen | .arcFlags | .treePtr | .bbBits | .bbPend | .hufNsym => false

/-- The number of readable bits in the bit buffer (R36). -/
def BitBuffer.bits (bb : BitBuffer) : Nat := 8 * bb.q.length - bb.r.val

/-- The value of a CSR; BB_BITS, BB_PEND and HUF_NSYM are views (R36, R37). -/
def State.readCsr (s : State) : Csr → Word
  | .status => s.csr.status
  | .res0 => s.csr.res0
  | .res1 => s.csr.res1
  | .res2 => s.csr.res2
  | .res3 => s.csr.res3
  | .arg0 => s.csr.arg0
  | .arg1 => s.csr.arg1
  | .arg2 => s.csr.arg2
  | .arg3 => s.csr.arg3
  | .hufBlockSize => s.csr.hufBlockSize
  | .hufMaxCodeLen => s.csr.hufMaxCodeLen
  | .lzWindow => s.csr.lzWindow
  | .lzMaxMatch => s.csr.lzMaxMatch
  | .flags => s.csr.flags
  | .seedLo => s.csr.seedLo
  | .seedHi => s.csr.seedHi
  | .quotaLo => s.csr.quotaLo
  | .quotaHi => s.csr.quotaHi
  | .archLen => s.csr.archLen
  | .arcFlags => s.csr.arcFlags
  | .treePtr => s.csr.treePtr
  | .bbBits => BitVec.ofNat 32 s.bb.bits
  | .bbPend => BitVec.ofNat 32 s.bb.pc.val
  | .hufNsym => BitVec.ofNat 32 s.symtab.length

/-- The CSR file with one RW register written (R21: any value is accepted). A RO register is left as it is. -/
def CsrFile.write (f : CsrFile) (c : Csr) (v : Word) : CsrFile :=
  match c with
  | .arg0 => { f with arg0 := v }
  | .arg1 => { f with arg1 := v }
  | .arg2 => { f with arg2 := v }
  | .arg3 => { f with arg3 := v }
  | .hufBlockSize => { f with hufBlockSize := v }
  | .hufMaxCodeLen => { f with hufMaxCodeLen := v }
  | .lzWindow => { f with lzWindow := v }
  | .lzMaxMatch => { f with lzMaxMatch := v }
  | .flags => { f with flags := v }
  | .seedLo => { f with seedLo := v }
  | .seedHi => { f with seedHi := v }
  | .quotaLo => { f with quotaLo := v }
  | .quotaHi => { f with quotaHi := v }
  | .status | .res0 | .res1 | .res2 | .res3 => f
  | .archLen | .arcFlags | .treePtr | .bbBits | .bbPend | .hufNsym => f

/-- A host read of any CSR number, with no side effect; an unassigned number reads 0 (R21, R62 b). -/
def State.hostRead (s : State) (n : Byte) : Word :=
  match csrOf n with
  | some c => s.readCsr c
  | none => 0

/-- A LO/HI pair as one number (R24, R65). -/
def pairNat (lo hi : Word) : Nat := hi.toNat * 2 ^ 32 + lo.toNat

/-- The 64-bit cipher seed (R31). -/
def State.seed (s : State) : BitVec 64 := s.csr.seedHi ++ s.csr.seedLo

/-- The write quota Q (R32). -/
def State.quota (s : State) : Nat := pairNat s.csr.quotaLo s.csr.quotaHi

/-- The declared original size of a file, ARG3:ARG2 (R25). -/
def State.fileSize (s : State) : Nat := pairNat s.csr.arg2 s.csr.arg3

/-- A result modulo 2^32 (R24). -/
def lowWord (n : Nat) : Word := BitVec.ofNat 32 n

/-- The high word of a 64-bit result (R24). -/
def highWord (n : Nat) : Word := BitVec.ofNat 32 (n / 2 ^ 32)

/-- HUF_BLOCK_SIZE is legal at use (R26). -/
def State.blockSizeLegal (s : State) : Bool :=
  decide (1 ≤ s.csr.hufBlockSize.toNat) && decide (s.csr.hufBlockSize.toNat ≤ 2 ^ 27)

/-- HUF_MAX_CODE_LEN is legal at use (R27). -/
def State.maxCodeLenLegal (s : State) : Bool :=
  decide (1 ≤ s.csr.hufMaxCodeLen.toNat) && decide (s.csr.hufMaxCodeLen.toNat ≤ 255)

/-- LZ_WINDOW is legal at use (R28). -/
def State.windowLegal (s : State) : Bool :=
  decide (1 ≤ s.csr.lzWindow.toNat) && decide (s.csr.lzWindow.toNat ≤ 255)

/-- LZ_MAX_MATCH is legal at use (R29). -/
def State.maxMatchLegal (s : State) : Bool :=
  decide (1 ≤ s.csr.lzMaxMatch.toNat) && decide (s.csr.lzMaxMatch.toNat ≤ 255)

/-- FLAGS is legal at use: bits 31:2 zero (R30). -/
def State.flagsLegal (s : State) : Bool := s.csr.flags.extractLsb' 2 30 == 0

/-- ARC_FLAGS[0]: the archive's files are ciphered (R34, R108). -/
def State.arcCipher (s : State) : Bool := s.csr.arcFlags.getLsbD 0

/-- ARC_FLAGS[1]: the archive's files are LZ77-coded (R34, R108). -/
def State.arcLz (s : State) : Bool := s.csr.arcFlags.getLsbD 1

/-- STATUS.FAULT of a state. -/
def State.faulted (s : State) : Bool := statusFault s.csr.status

/-- The bytes of IN before the first EOS, or all of them if there is no EOS (R76, R181). -/
def leadingBytes : List Token → List Byte
  | .byte b :: ts => b :: leadingBytes ts
  | .eos :: _ => []
  | [] => []

/-- IN holds at least one EOS (R77). -/
def hasEos : List Token → Bool
  | .eos :: _ => true
  | .byte _ :: ts => hasEos ts
  | [] => false

/-- IN after `takeToEOS` (R76): the leading bytes and the EOS that ends them are gone. -/
def afterEos : List Token → List Token
  | .eos :: ts => ts
  | .byte _ :: ts => afterEos ts
  | [] => []

/-- How many tokens stand in IN up to and including the first EOS; all of them if there is no EOS (R393). -/
def streamTokens : List Token → Nat
  | .eos :: _ => 1
  | .byte _ :: ts => streamTokens ts + 1
  | [] => 0

end Sys2Proof.Machine
end

