-- ==== Sys2Proof/Machine/Ops.lean ====
section
/-! DEFINITION. The named operations over the state: ARCH_MEM (spec/20_memory.md R61), the register and stream
writes, the completion of a command (spec/10_state.md R45), the entry into a fault (spec/60_exceptions.md R390,
R392, R393) and the return from one, which is reset (spec/46_control.md R381, spec/70_reset_and_hazards.md R430). -/

namespace Sys2Proof.Machine

open Sys2Proof

/-! ### ARCH_MEM -/

/-- The byte at an address; none where nothing has been written since power-on (log entry 9). -/
def Mem.read : Mem → Nat → Option Byte
  | [], _ => none
  | (a, b) :: m, addr => if a = addr then some b else if addr < a then none else Mem.read m addr

/-- Write one byte, keeping the addresses strictly rising. -/
def Mem.write (addr : Nat) (v : Byte) : Mem → Mem
  | [] => [(addr, v)]
  | (a, b) :: m =>
    if a = addr then (addr, v) :: m
    else if addr < a then (addr, v) :: (a, b) :: m
    else (a, b) :: Mem.write addr v m

/-- `MemWrite` of R61: bytes at consecutive addresses. -/
def Mem.writeBytes (addr : Nat) : List Byte → Mem → Mem
  | [], m => m
  | v :: vs, m => Mem.writeBytes (addr + 1) vs (Mem.write addr v m)

/-- The `n` bytes from an address on; none where one of them has not been written. -/
def Mem.readBytes (m : Mem) (addr : Nat) : Nat → Option (List Byte)
  | 0 => some []
  | n + 1 =>
    match Mem.read m addr, Mem.readBytes m (addr + 1) n with
    | some b, some bs => some (b :: bs)
    | _, _ => none

/-- The canonical form: the addresses strictly rise. (No entry can equal what an unlisted address reads as, which
is no value.) -/
def Mem.wf : Mem → Bool
  | [] => true
  | [_] => true
  | (a, _) :: (a', b') :: m => decide (a < a') && Mem.wf ((a', b') :: m)

/-- Every listed address lies in the address space 0 .. size - 1 (R60). -/
def Mem.within (size : Nat) (m : Mem) : Bool := m.all fun c => decide (c.1 < size)

/-- `MemRead` of R61, with its requirement: no byte at or above ARCH_LEN is read. -/
def State.memRead (s : State) (addr n : Nat) : Except Fault (List Byte) :=
  if addr + n ≤ s.csr.archLen.toNat then
    match Mem.readBytes s.arch addr n with
    | some bs => .ok bs
    | none => .error .archUnwritten
  else .error .archBeyondLength

/-- Go on with the bytes of a `MemRead`. -/
def withBytes (bytes : Except Fault (List Byte)) (use : List Byte → Result) : Result :=
  match bytes with
  | .ok bs => use bs
  | .error f => .fault f

/-! ### Writes to one part of the state -/

def State.withStatus (s : State) (v : Word) : State := { s with csr := { s.csr with status := v } }
def State.withRes0 (s : State) (v : Word) : State := { s with csr := { s.csr with res0 := v } }
def State.withRes1 (s : State) (v : Word) : State := { s with csr := { s.csr with res1 := v } }
def State.withRes2 (s : State) (v : Word) : State := { s with csr := { s.csr with res2 := v } }
def State.withRes3 (s : State) (v : Word) : State := { s with csr := { s.csr with res3 := v } }
def State.withArchLen (s : State) (v : Word) : State := { s with csr := { s.csr with archLen := v } }
def State.withArcFlags (s : State) (v : Word) : State := { s with csr := { s.csr with arcFlags := v } }
def State.withTreePtr (s : State) (v : Word) : State := { s with csr := { s.csr with treePtr := v } }
/-- The write quota Q as a LO/HI pair (R32). -/
def State.withQuota (s : State) (q : Nat) : State :=
  { s with csr := { s.csr with quotaLo := lowWord q, quotaHi := highWord q } }
def State.writeCsr (s : State) (c : Csr) (v : Word) : State := { s with csr := s.csr.write c v }
def State.withInq (s : State) (ts : List Token) : State := { s with inq := ts }
/-- `OutPush` of R11 for each byte in order. -/
def State.pushOut (s : State) (bs : List Byte) : State := { s with outq := s.outq ++ bs }
def State.withArch (s : State) (m : Mem) : State := { s with arch := m }
def State.withBb (s : State) (bb : BitBuffer) : State := { s with bb := bb }
def State.withSymtab (s : State) (t : Symtab) : State := { s with symtab := t }

/-! ### Completing a command -/

/-- The command leaves the command port, and the count of commands advances by one (R45, R62 a). -/
def State.retire (s : State) : State := { s with port := none, retired := s.retired + 1 }

/-- The command completes with this state. -/
def complete (s : State) : Result := .next s.retire

/-! ### Fault entry -/

/-- Fault entry (R390): the first fault since reset is recorded in STATUS, a later one changes nothing. -/
def State.raise (s : State) (c : FaultCode) : State :=
  if s.faulted then s else s.withStatus (statusPutFault c.code s.csr.status)

/-- A fault with no other effect (R392). -/
def faultNoEffect (c : FaultCode) (s : State) : Result := complete (s.raise c)

/-- The ARCH_MEM bytes of a faulted command's write range that exist, each holding any value (R393). -/
def scribble (p : Params) (n : Nat) (start len : Nat) (m : Mem) : Mem :=
  Mem.writeBytes start
    ((List.range (min (start + len) p.archSize - start)).map fun k => p.faultArch n (start + k)) m

/-- The values R393 leaves open after the n-th fault found while or after input is read: bytes appended to OUT,
tokens removed from IN up to and including the first EOS, RES0 to RES3, and the bytes of the write ranges. -/
def State.unspecify (p : Params) (ranges : List (Nat × Nat)) (s : State) : State :=
  { s with
    inq := s.inq.drop (min (p.faultTake s.choice) (streamTokens s.inq))
    outq := s.outq ++ p.faultOut s.choice
    arch := ranges.foldl (fun m r => scribble p s.choice r.1 r.2 m) s.arch
    csr := { s.csr with
      res0 := p.faultRes s.choice 0
      res1 := p.faultRes s.choice 1
      res2 := p.faultRes s.choice 2
      res3 := p.faultRes s.choice 3 }
    choice := s.choice + 1 }

/-- A fault found while or after input is read (R393). `ranges` are the (start, length) ranges of ARCH_MEM that
the command would have written. -/
def faultAfterInput (p : Params) (c : FaultCode) (ranges : List (Nat × Nat)) (s : State) : Result :=
  complete ((s.raise c).unspecify p ranges)

/-! ### Reset, the only return from a fault (R401) -/

/-- The RESET command's effect (R381): OUT and ARCH_MEM are not changed. -/
def State.resetBlock (s : State) : State :=
  { s with csr := CsrFile.zero, bb := BitBuffer.empty, symtab := [], inq := [] }

/-- Power-on reset (R430): OUT is emptied, the content of ARCH_MEM is unspecified, and a held command is abandoned.
The host's further actions and the model's counters are not part of the block and stay (log entry 14). -/
def State.powerOn (s : State) : State :=
  { State.reset with hostq := s.hostq, retired := s.retired, choice := s.choice }

end Sys2Proof.Machine
end

