-- ==== Sys2Proof/Machine/PrefixCode.lean ====
section
/-! DEFINITION. The Huffman prefix-code builder and the block partition (spec/41_huffman.md R170 to R177). -/

namespace Sys2Proof.Machine

open Sys2Proof

/-- SYMTAB's entry of a symbol (R42). -/
def Symtab.lookup : Symtab → Byte → Option Bits
  | [], _ => none
  | (s, c) :: t, sym => if s = sym then some c else Symtab.lookup t sym

/-- The code of a symbol, the empty string where it has none (log entry 13). -/
def Symtab.codeOf (t : Symtab) (sym : Byte) : Bits := (Symtab.lookup t sym).getD []

/-- Add or replace an entry, keeping the symbols strictly rising. -/
def Symtab.insert (sym : Byte) (code : Bits) : Symtab → Symtab
  | [] => [(sym, code)]
  | (s, c) :: t =>
    if s = sym then (sym, code) :: t
    else if sym < s then (sym, code) :: (s, c) :: t
    else (s, c) :: Symtab.insert sym code t

/-- The symbols strictly rise. -/
def Symtab.sorted : Symtab → Bool
  | [] => true
  | [_] => true
  | (s, _) :: (s', c') :: t => decide (s < s') && Symtab.sorted ((s', c') :: t)

/-- Every code has 1 to 255 bits (R42). -/
def Symtab.codesFit (t : Symtab) : Bool := t.all fun e => decide (1 ≤ e.2.length) && decide (e.2.length ≤ 255)

/-- The symbol that has exactly this code (R271). -/
def Symtab.symbolOf : Symtab → Bits → Option Byte
  | [], _ => none
  | (s, c) :: t, code => if c = code then some s else Symtab.symbolOf t code

/-- `blocks` of R170, with fuel: a block takes at least one symbol, so the stream's length is enough. -/
def blocksFuel (size : Nat) : Nat → List Byte → List (List Byte)
  | 0, _ => []
  | _, [] => []
  | fuel + 1, s :: rest => (s :: rest).take size :: blocksFuel size fuel ((s :: rest).drop size)

/-- The block partition of a stream (R170). -/
def blocks (size : Nat) (stream : List Byte) : List (List Byte) := blocksFuel size stream.length stream

/-- The distinct symbols, each at its first occurrence, after those of `seen`. -/
def distinctAfter (seen : List Byte) : List Byte → List Byte
  | [] => []
  | x :: xs => if seen.contains x then distinctAfter seen xs else x :: distinctAfter (x :: seen) xs

/-- Every byte value, ascending. -/
def allBytes : List Byte := (List.range 256).map (BitVec.ofNat 8)

/-- `syms(X)` of R171: the distinct symbols of a block in leaf insertion order. -/
def syms (order : LeafOrder) (block : List Byte) : List Byte :=
  match order with
  | .firstOccurrence => distinctAfter [] block
  | .ascendingSymbol => allBytes.filter fun s => block.contains s

/-- `freq(s)` of R171. -/
def freq (block : List Byte) (s : Byte) : Nat := block.count s

/-- A code tree (R172, R173). -/
inductive CodeTree where
  | leaf (s : Byte)
  | node (left right : CodeTree)
  deriving DecidableEq, Repr

/-- A node of the priority structure (R172). -/
structure QueueNode where
  weight : Nat
  seq : Nat
  tree : CodeTree
  deriving DecidableEq, Repr

/-- Order by (weight, seq) (R172). -/
def QueueNode.before (a b : QueueNode) : Bool :=
  decide (a.weight < b.weight) || (decide (a.weight = b.weight) && decide (a.seq < b.seq))

/-- The least of `best :: nodes` by (weight, seq), and the others. -/
def removeLeast (best : QueueNode) : List QueueNode → QueueNode × List QueueNode
  | [] => (best, [])
  | n :: ns =>
    if n.before best then
      let (least, others) := removeLeast n ns
      (least, best :: others)
    else
      let (least, others) := removeLeast best ns
      (least, n :: others)

/-- The merging loop of R172 and R175, with fuel: each round leaves one node fewer. -/
def mergeNodes : Nat → Nat → List QueueNode → Option CodeTree
  | _, _, [] => none
  | _, _, [n] => some n.tree
  | 0, _, _ => none
  | fuel + 1, seq, n :: m :: ns =>
    match removeLeast n (m :: ns) with
    | (_, []) => none
    | (a, o :: os) =>
      let (b, others) := removeLeast o os
      mergeNodes fuel (seq + 1) (others ++ [⟨a.weight + b.weight, seq, .node a.tree b.tree⟩])

/-- The leaves' codes, each after the path `pre` from the root: left 0, right 1 (R173). -/
def treeCodes (pre : Bits) : CodeTree → List (Byte × Bits)
  | .leaf s => [(s, pre)]
  | .node l r => treeCodes (pre ++ [false]) l ++ treeCodes (pre ++ [true]) r

/-- The leaves in insertion order, `seq` = 0, 1, 2, ... (R172). -/
def leafNodes (block : List Byte) (seq : Nat) : List Byte → List QueueNode
  | [] => []
  | s :: ss => ⟨freq block s, seq, .leaf s⟩ :: leafNodes block (seq + 1) ss

/-- A symbol table from its entries. -/
def tableOf (entries : List (Byte × Bits)) : Symtab :=
  entries.foldl (fun t e => Symtab.insert e.1 e.2 t) []

/-- `huffBuild` of R175. -/
def huffBuild (order : LeafOrder) (block : List Byte) : Symtab :=
  match syms order block with
  | [] => []
  | [s] => [(s, [false])]
  | s :: s' :: ss =>
    let leaves := s :: s' :: ss
    match mergeNodes leaves.length leaves.length (leafNodes block 0 leaves) with
    | some tree => tableOf (treeCodes [] tree)
    | none => []

/-- Some code of the table has more than `maxLen` bits (R176). -/
def codeTooLong (maxLen : Nat) (t : Symtab) : Bool := t.any fun e => decide (maxLen < e.2.length)

/-- No code is a prefix of another symbol's code; equal codes count as prefixes (R177, R269). -/
def prefixFree (t : Symtab) : Bool :=
  t.all fun e => t.all fun e' => e.1 == e'.1 || !(e.2.isPrefixOf e'.2)

end Sys2Proof.Machine
end

