-- ==== Sys2Proof/Machine/Converters.lean ====
section
/-! DEFINITION. The binary converters: the byte layout of Huffman blocks and LZ77 records, written and read
(spec/43_converters.md R260 to R274, spec/30_encoding.md R100 to R105). A function that reads takes the bytes from
the spec's index `p` on, and answers the bytes after what it has read; a fault is the code R391 gives it. -/

namespace Sys2Proof.Machine

open Sys2Proof

/-! ### Huffman blocks, written -/

/-- One code-table record (R101). -/
def tableRecord (e : Byte × Bits) : List Byte := e.1 :: BitVec.ofNat 8 e.2.length :: pack e.2

/-- `serTable` of R265. -/
def serTable (t : Symtab) : List Byte :=
  let recs := t.flatMap tableRecord
  be32 recs.length ++ recs

/-- The concatenated codes of a block's symbols (R266). -/
def blockBits (t : Symtab) (block : List Byte) : Bits := block.flatMap fun s => Symtab.codeOf t s

/-- `Dfield` of R266: the value of a data section's length field. -/
def dataLenField (includesFiller : Bool) (dataLen : Nat) : Nat := if includesFiller then dataLen + 1 else dataLen

/-- `serData` of R266. -/
def serData (p : Params) (t : Symtab) (block : List Byte) : List Byte :=
  let bits := blockBits t block
  let data := pack bits
  be32 (dataLenField p.dataLenIncludesFiller data.length) ++ [BitVec.ofNat 8 (filler bits.length)] ++ data

/-- `serBlock` of R267. -/
def serBlock (p : Params) (block : List Byte) : List Byte :=
  let t := huffBuild p.leafOrder block
  serTable t ++ serData p t block

/-- The blocks of a stream, serialized in order (R105), whatever their code lengths. -/
def serStream (p : Params) (size : Nat) (stream : List Byte) : List Byte :=
  (blocks size stream).flatMap (serBlock p)

/-- `hufEncodeStream` of R273. -/
def hufEncodeStream (p : Params) (maxLen size : Nat) (stream : List Byte) : Except FaultCode (List Byte) :=
  if (blocks size stream).any (fun x => codeTooLong maxLen (huffBuild p.leafOrder x)) then .error .hufCodeTooLong
  else .ok (serStream p size stream)

/-- The table of the last block of a stream, none where the stream has no block (R182, R341). -/
def lastTable (p : Params) (size : Nat) (stream : List Byte) : Option Symtab :=
  ((blocks size stream).getLast?).map (huffBuild p.leafOrder)

/-! ### Huffman blocks, read -/

/-- The records of a table section, which must fill it exactly (R268). Fuel: a record takes at least two bytes. -/
def parseRecords (maxLen : Nat) : Nat → List Byte → Symtab → Except FaultCode Symtab
  | _, [], t => .ok t
  | 0, _ :: _, _ => .error .hufBadTable
  | _ + 1, [_], _ => .error .hufBadTable
  | fuel + 1, s :: l :: rest, t =>
    if l.toNat = 0 ∨ maxLen < l.toNat then .error .hufBadTable
    else if rest.length < ceil8 l.toNat then .error .hufBadTable
    else if (Symtab.lookup t s).isSome then .error .hufBadTable
    else
      parseRecords maxLen fuel (rest.drop (ceil8 l.toNat))
        (Symtab.insert s ((unpack (rest.take (ceil8 l.toNat))).take l.toNat) t)

/-- `parseTable` of R268, with the validity check of R269. -/
def parseTable (maxLen : Nat) (bs : List Byte) : Except FaultCode (Symtab × List Byte) :=
  if bs.length < 4 then .error .hufTruncated
  else
    let len := readBE32 (bs.take 4)
    let rest := bs.drop 4
    if rest.length < len then .error .hufTruncated
    else
      match parseRecords maxLen len (rest.take len) [] with
      | .error f => .error f
      | .ok t =>
        if t = [] then .error .hufBadTable
        else if prefixFree t then .ok (t, rest.drop len)
        else .error .hufBadTable

/-- `parseDataHeader` of R270: the data length, the filler count and the bytes that follow the header. -/
def parseDataHeader (p : Params) (bs : List Byte) : Except FaultCode (Nat × Nat × List Byte) :=
  if bs.length < 5 then .error .hufTruncated
  else
    let field := readBE32 (bs.take 4)
    let fill := ((bs.drop 4).headD 0).toNat
    let rest := bs.drop 5
    if p.dataLenIncludesFiller = true ∧ field = 0 then .error .hufBadData
    else
      let len := if p.dataLenIncludesFiller then field - 1 else field
      if len = 0 then .error .hufBadData
      else if 7 < fill then .error .hufBadData
      else if rest.length < len then .error .hufTruncated
      else .ok (len, fill, rest)

/-- `decodeBits` of R271 over the significant bits, with the candidate grown so far. -/
def decodeBits (maxLen : Nat) (t : Symtab) : Bits → Bits → Except FaultCode (List Byte)
  | [], cand => if cand = [] then .ok [] else .error .hufBadData
  | b :: bits, cand =>
    if maxLen < (cand ++ [b]).length then .error .hufBadData
    else
      match Symtab.symbolOf t (cand ++ [b]) with
      | some s =>
        match decodeBits maxLen t bits [] with
        | .ok ys => .ok (s :: ys)
        | .error f => .error f
      | none => decodeBits maxLen t bits (cand ++ [b])

/-- `parseBlock` of R272: the table, the symbols and the count of bytes consumed. -/
def parseBlock (p : Params) (maxLen : Nat) (bs : List Byte) : Except FaultCode (Symtab × List Byte × Nat) :=
  match parseTable maxLen bs with
  | .error f => .error f
  | .ok (t, afterTable) =>
    match parseDataHeader p afterTable with
    | .error f => .error f
    | .ok (len, fill, rest) =>
      match decodeBits maxLen t ((unpack (rest.take len)).take (8 * len - fill)) [] with
      | .error f => .error f
      | .ok ys => .ok (t, ys, bs.length - (rest.length - len))

/-- The loop of `hufDecodeStream` (R274), with fuel: a block takes at least one byte. -/
def hufDecodeFuel (p : Params) (maxLen : Nat) : Nat → List Byte → Except FaultCode (List Byte × List Symtab)
  | _, [] => .ok ([], [])
  | 0, _ :: _ => .error .hufTruncated
  | fuel + 1, b :: bs =>
    match parseBlock p maxLen (b :: bs) with
    | .error f => .error f
    | .ok (t, ys, n) =>
      match hufDecodeFuel p maxLen fuel ((b :: bs).drop n) with
      | .error f => .error f
      | .ok (zs, ts) => .ok (ys ++ zs, t :: ts)

/-- `hufDecodeStream` of R274. -/
def hufDecodeStream (p : Params) (maxLen : Nat) (bs : List Byte) : Except FaultCode (List Byte × List Symtab) :=
  hufDecodeFuel p maxLen bs.length bs

/-! ### LZ77 records -/

/-- An LZ77 record (R100, R13). A Copy's distance and length are 1 to 255 in a valid record. -/
inductive LzRecord where
  | literal (b : Byte)
  | copy (d l : Byte)
  deriving DecidableEq, Repr

/-- `recBytes` of R260. -/
def recBytes : LzRecord → List Byte
  | .literal b => [0, b]
  | .copy d l => [d, l]

/-- `lzSerialize` of R261. -/
def lzSerialize (recs : List LzRecord) : List Byte := recs.flatMap recBytes

/-- The two bytes of a record, read (R262). -/
def recordOf (b0 b1 : Byte) : Except FaultCode LzRecord :=
  if b0 = 0 then .ok (.literal b1)
  else if b1 = 0 then .error .lzBadCopy
  else .ok (.copy b0 b1)

/-- `parseRecord` of R262. -/
def parseRecord : List Byte → Except FaultCode (LzRecord × List Byte)
  | b0 :: b1 :: rest =>
    match recordOf b0 b1 with
    | .ok r => .ok (r, rest)
    | .error f => .error f
  | _ => .error .lzTruncated

end Sys2Proof.Machine
end

