-- ==== Sys2Proof/Machine/SlidingWindow.lean ====
section
/-! DEFINITION. The LZ77 match finder and replayer (spec/42_lz77.md R220 to R229). -/

namespace Sys2Proof.Machine

open Sys2Proof

/-- How many leading elements, at most `lim`, two lists share. -/
def commonPrefix : Nat → List Byte → List Byte → Nat
  | lim + 1, x :: xs, y :: ys => if x = y then commonPrefix lim xs ys + 1 else 0
  | _, _, _ => 0

/-- The match length at distance `d` from position `pos` (R222). -/
def matchLength (overlap : Bool) (stream : List Byte) (pos cap d : Nat) : Nat :=
  commonPrefix (if overlap then cap else min cap d) (stream.drop (pos - d)) (stream.drop pos)

/-- The scan of R221 and R223 over the distances `d, d + 1, ...`, `count` of them: the best (length, distance). -/
def scanMatches (overlap : Bool) (stream : List Byte) (pos cap : Nat) : Nat → Nat → Nat × Nat → Nat × Nat
  | 0, _, best => best
  | count + 1, d, best =>
    let k := matchLength overlap stream pos cap d
    scanMatches overlap stream pos cap count (d + 1) (if best.1 < k then (k, d) else best)

/-- The best match at a position (R220 to R223): its (length, distance), (0, 0) where nothing matches. -/
def bestMatch (overlap : Bool) (stream : List Byte) (window maxMatch pos : Nat) : Nat × Nat :=
  scanMatches overlap stream pos (min maxMatch (min window (stream.length - pos))) (min pos window) 1 (0, 0)

/-- The loop of `lzEncode` (R224, R225), with fuel: each record advances the position. -/
def lzEncodeFuel (overlap : Bool) (stream : List Byte) (window maxMatch : Nat) : Nat → Nat → List LzRecord
  | 0, _ => []
  | fuel + 1, pos =>
    match stream.drop pos with
    | [] => []
    | x :: _ =>
      let (len, dist) := bestMatch overlap stream window maxMatch pos
      if len ≤ 1 then .literal x :: lzEncodeFuel overlap stream window maxMatch fuel (pos + 1)
      else
        .copy (BitVec.ofNat 8 dist) (BitVec.ofNat 8 len) ::
          lzEncodeFuel overlap stream window maxMatch fuel (pos + len)

/-- `lzEncode` of R225. -/
def lzEncode (overlap : Bool) (stream : List Byte) (window maxMatch : Nat) : List LzRecord :=
  lzEncodeFuel overlap stream window maxMatch stream.length 0

/-- Replay `n` bytes, each `d` positions behind the growing end of the output (R227). -/
def replay (d : Nat) : Nat → List Byte → List Byte
  | 0, out => out
  | n + 1, out => replay d n (out ++ [out.getD (out.length - d) 0])

/-- `apply` of R227. -/
def applyRecord (window : Nat) (out : List Byte) : LzRecord → Except FaultCode (List Byte)
  | .literal b => .ok (out ++ [b])
  | .copy d l =>
    if l = 0 then .error .lzBadCopy
    else if min out.length window < d.toNat then .error .lzBadCopy
    else .ok (replay d.toNat l.toNat out)

/-- The loop of `lzDecodeBytes` (R228) from the output produced so far. -/
def lzDecodeFrom (window : Nat) : List Byte → List Byte → Except FaultCode (List Byte)
  | [], out => .ok out
  | [_], _ => .error .lzTruncated
  | b0 :: b1 :: rest, out =>
    match recordOf b0 b1 with
    | .error f => .error f
    | .ok r =>
      match applyRecord window out r with
      | .error f => .error f
      | .ok out' => lzDecodeFrom window rest out'

/-- `lzDecodeBytes` of R228. -/
def lzDecodeBytes (window : Nat) (bs : List Byte) : Except FaultCode (List Byte) := lzDecodeFrom window bs []

end Sys2Proof.Machine
end

