-- ==== Sys2Proof/Machine/Pipeline.lean ====
section
/-! DEFINITION. The cipher stage (spec/44_cipher.md R300 to R302), the per-file pipelines (spec/45_archive.md R320,
R321) and the write quota (R329). -/

namespace Sys2Proof.Machine

open Sys2Proof

/-- Shift each byte by its keystream byte, from index `i` on, with `shift` adding or subtracting modulo 256. -/
def cipherFrom (shift : Byte → Byte → Byte) (ks : Nat → Byte) : Nat → List Byte → List Byte
  | _, [] => []
  | i, b :: bs => shift b (ks i) :: cipherFrom shift ks (i + 1) bs

/-- `cipherEnc` of R301. -/
def cipherEnc (p : Params) (seed : BitVec 64) (bs : List Byte) : List Byte :=
  cipherFrom (fun b k => b + k) (p.ks seed) 0 bs

/-- `cipherDec` of R302. -/
def cipherDec (p : Params) (seed : BitVec 64) (bs : List Byte) : List Byte :=
  cipherFrom (fun b k => b - k) (p.ks seed) 0 bs

/-- The configuration a file's pipeline reads (R320, R321). -/
structure PipeConfig where
  /-- ARC_FLAGS[0] -/
  cipher : Bool
  /-- ARC_FLAGS[1] -/
  lz : Bool
  seed : BitVec 64
  blockSize : Nat
  maxCodeLen : Nat
  window : Nat
  maxMatch : Nat
  deriving DecidableEq, Repr

/-- The pipeline configuration of a state. -/
def State.pipe (s : State) : PipeConfig where
  cipher := s.arcCipher
  lz := s.arcLz
  seed := s.seed
  blockSize := s.csr.hufBlockSize.toNat
  maxCodeLen := s.csr.hufMaxCodeLen.toNat
  window := s.csr.lzWindow.toNat
  maxMatch := s.csr.lzMaxMatch.toNat

/-- The bytes the Huffman stage codes: `s2` of R320. -/
def packStages (p : Params) (c : PipeConfig) (file : List Byte) : List Byte :=
  let s1 := if c.cipher then cipherEnc p c.seed file else file
  if c.lz then lzSerialize (lzEncode p.lzOverlap s1 c.window c.maxMatch) else s1

/-- `packFile` of R320: the file's region. -/
def packFile (p : Params) (c : PipeConfig) (file : List Byte) : Except FaultCode (List Byte) :=
  hufEncodeStream p c.maxCodeLen c.blockSize (packStages p c file)

/-- `unpackFile` of R321: the file's bytes and the tables of its blocks. -/
def unpackFile (p : Params) (c : PipeConfig) (region : List Byte) : Except FaultCode (List Byte × List Symtab) :=
  match hufDecodeStream p c.maxCodeLen region with
  | .error f => .error f
  | .ok (s2, ts) =>
    match (if c.lz then lzDecodeBytes c.window s2 else .ok s2) with
    | .error f => .error f
    | .ok s1 => .ok (if c.cipher then cipherDec p c.seed s1 else s1, ts)

/-- What `quotaWrite` does (R329). -/
structure QuotaWrite where
  /-- the bytes written to OUT -/
  out : List Byte
  /-- Q afterwards -/
  quota : Nat
  /-- how many bytes were written -/
  written : Nat
  /-- a byte was not written: QEXH is set -/
  suppressed : Bool
  deriving DecidableEq, Repr

/-- The loop of `quotaWrite` (R329): a byte is written while Q > 0, and suppressed otherwise. -/
def quotaWrite : List Byte → Nat → QuotaWrite
  | [], q => ⟨[], q, 0, false⟩
  | y :: ys, q =>
    if 0 < q then
      let w := quotaWrite ys (q - 1)
      ⟨y :: w.out, w.quota, w.written + 1, w.suppressed⟩
    else
      let w := quotaWrite ys q
      ⟨w.out, w.quota, w.written, true⟩

end Sys2Proof.Machine
end

