-- ==== Sys2Proof/Machine/Waits.lean ====
section
/-! DEFINITION. What a command waits for before it starts (spec/20_memory.md R77 and the "Waits" line of every
command's rule), what STATUS.FAULT does to a command (spec/60_exceptions.md R394), and the host's side of the
command port and the streams (spec/20_memory.md R62, R77, R78). -/

namespace Sys2Proof.Machine

open Sys2Proof

/-- HUF_DECBLK's wait (R181): an EOS, or tokens enough for `parseBlock` not to run past their end, which it
reports as HUF_TRUNCATED (log entry 4). -/
def blockReady (p : Params) (s : State) : Bool :=
  hasEos s.inq ||
    !(match parseBlock p s.csr.hufMaxCodeLen.toNat (leadingBytes s.inq) with
      | .error .hufTruncated => true
      | _ => false)

/-- The command's input is present, so that it can start (R77). -/
def inputReady (p : Params) (i : Instr) (s : State) : Bool :=
  match i with
  | .hufEncblk => hasEos s.inq || decide (s.csr.hufBlockSize.toNat ≤ (leadingBytes s.inq).length)
  | .hufDecblk => blockReady p s
  | .hufEnc | .hufDec | .lzEnc | .lzDec | .ciphEnc | .ciphDec => hasEos s.inq
  | .arcPutfile | .arcPuttree | .arcLoad => hasEos s.inq
  | .lzrecGet => hasEos s.inq || decide (2 ≤ s.inq.length)
  | .nop | .reset | .csrWr _ _ | .csrRd _ => true
  | .bbPutbyte _ | .bbPutbit _ | .bbFlush | .bbGetbit | .bbGetbyte | .bbAvail _ | .bbClear => true
  | .hufTblrd _ _ | .lzrecPut _ _ => true
  | .arcBegin | .arcOpen | .arcGettree | .arcGetfile | .arcDump => true

/-- The two commands that execute while STATUS.FAULT = 1 (R394). -/
def runsWhileFaulted : Instr → Bool
  | .reset | .csrRd _ => true
  | .nop | .csrWr _ _ => false
  | .bbPutbyte _ | .bbPutbit _ | .bbFlush | .bbGetbit | .bbGetbyte | .bbAvail _ | .bbClear => false
  | .hufEncblk | .hufDecblk | .hufEnc | .hufDec | .hufTblrd _ _ => false
  | .lzEnc | .lzDec | .lzrecPut _ _ | .lzrecGet | .ciphEnc | .ciphDec => false
  | .arcBegin | .arcPutfile | .arcPuttree | .arcLoad => false
  | .arcOpen | .arcGettree | .arcGetfile | .arcDump => false

/-- The command stands on the port and cannot start: it has no step (R77). While STATUS.FAULT = 1 no command
waits (R394). -/
def held (p : Params) (i : Instr) (s : State) : Bool := !s.faulted && !inputReady p i s

/-- Start command `i`. While STATUS.FAULT = 1 a command other than RESET and CSR_RD completes with no effect (R394);
a command that lacks input changes nothing and does not complete (R77); otherwise its body runs. -/
def start (p : Params) (i : Instr) (s : State) (body : State → Result) : Result :=
  if s.faulted && !runsWhileFaulted i then complete s
  else if held p i s then .next s
  else body s

/-- A command word that decodes to nothing (R92, R394). -/
def illegalWord (s : State) : Result := faultNoEffect .illegalCmd s

/-- The word on the command port is held (R77). -/
def heldWord (p : Params) (w : CommandWord) (s : State) : Bool :=
  match decode w with
  | .ok i => held p i s
  | .error _ => false

/-- The host's next action (R62, R77, R78, R430). A command word waits until the port is free; with no action to
come, nothing happens. -/
def State.hostAct (s : State) : State :=
  match s.hostq with
  | [] => s
  | .command w :: rest =>
    match s.port with
    | none => { s with port := some w, hostq := rest }
    | some _ => s
  | .append ts :: rest => { s with inq := s.inq ++ ts, hostq := rest }
  | .take n :: rest => { s with outq := s.outq.drop n, hostq := rest }
  | .powerOn :: rest => { s with hostq := rest }.powerOn

end Sys2Proof.Machine
end

