-- ==== Sys2Proof/Machine/Huffman.lean ====
section
/-! DEFINITION. The Huffman commands (spec/41_huffman.md R180 to R185). -/

namespace Sys2Proof.Machine

open Sys2Proof

/-- The result of HUF_ENCBLK, HUF_DECBLK and LZREC_GET on a stream already exhausted: the EOS is taken, RES0 and
RES1 are 0 and RES2 is 1 (R180, R181, R281, R396). -/
def streamExhausted (rest : List Token) (s : State) : Result :=
  complete ((((s.withInq rest).withRes0 0).withRes1 0).withRes2 1)

/-- The three counts most stream commands leave in RES0, RES1 and RES2, each modulo 2^32. -/
def State.withCounts (s : State) (n0 n1 n2 : Nat) : State :=
  ((s.withRes0 (lowWord n0)).withRes1 (lowWord n1)).withRes2 (lowWord n2)

/-- Replace SYMTAB by the table of the last block, or leave it where there was no block (R42). -/
def State.withLastTable (s : State) (t : Option Symtab) : State :=
  match t with
  | some t => s.withSymtab t
  | none => s

/-- The block HUF_ENCBLK takes: byte tokens until there are HUF_BLOCK_SIZE of them or an EOS comes (R180). -/
def State.nextBlock (s : State) : List Byte := (leadingBytes s.inq).take s.csr.hufBlockSize.toNat

/-- HUF_ENCBLK (R180, R184). -/
def hufEncblk (p : Params) (s : State) : Result :=
  start p .hufEncblk s fun s =>
    if !s.blockSizeLegal then faultNoEffect .badConfig s
    else if !s.maxCodeLenLegal then faultNoEffect .badConfig s
    else
      match s.inq with
      | .eos :: rest => streamExhausted rest s
      | _ =>
        let block := s.nextBlock
        let table := huffBuild p.leafOrder block
        if codeTooLong s.csr.hufMaxCodeLen.toNat table then faultAfterInput p .hufCodeTooLong [] s
        else
          let blk := serBlock p block
          complete ((((s.withInq (s.inq.drop block.length)).withSymtab table).pushOut blk).withCounts
            block.length blk.length 0)

/-- HUF_DECBLK (R181, R184). -/
def hufDecblk (p : Params) (s : State) : Result :=
  start p .hufDecblk s fun s =>
    if !s.maxCodeLenLegal then faultNoEffect .badConfig s
    else
      match s.inq with
      | .eos :: rest => streamExhausted rest s
      | _ =>
        match parseBlock p s.csr.hufMaxCodeLen.toNat (leadingBytes s.inq) with
        | .error c => faultAfterInput p c [] s
        | .ok (table, ys, n) =>
          complete ((((s.withInq (s.inq.drop n)).withSymtab table).pushOut ys).withCounts n ys.length 0)

/-- HUF_ENC (R182, R184). -/
def hufEnc (p : Params) (s : State) : Result :=
  start p .hufEnc s fun s =>
    if !s.blockSizeLegal then faultNoEffect .badConfig s
    else if !s.maxCodeLenLegal then faultNoEffect .badConfig s
    else
      let stream := leadingBytes s.inq
      let size := s.csr.hufBlockSize.toNat
      match hufEncodeStream p s.csr.hufMaxCodeLen.toNat size stream with
      | .error c => faultAfterInput p c [] s
      | .ok out =>
        complete ((((s.withInq (afterEos s.inq)).withLastTable (lastTable p size stream)).pushOut out).withCounts
          stream.length out.length (blocks size stream).length)

/-- HUF_DEC (R183, R184). -/
def hufDec (p : Params) (s : State) : Result :=
  start p .hufDec s fun s =>
    if !s.maxCodeLenLegal then faultNoEffect .badConfig s
    else
      let bs := leadingBytes s.inq
      match hufDecodeStream p s.csr.hufMaxCodeLen.toNat bs with
      | .error c => faultAfterInput p c [] s
      | .ok (ys, ts) =>
        complete ((((s.withInq (afterEos s.inq)).withLastTable ts.getLast?).pushOut ys).withCounts
          bs.length ys.length ts.length)

/-- HUF_ENCBLK on this hardware. -/
def execHufEncblk (s : State) : Result := hufEncblk Params.hw s

/-- HUF_DECBLK on this hardware. -/
def execHufDecblk (s : State) : Result := hufDecblk Params.hw s

/-- HUF_ENC on this hardware. -/
def execHufEnc (s : State) : Result := hufEnc Params.hw s

/-- HUF_DEC on this hardware. -/
def execHufDec (s : State) : Result := hufDec Params.hw s

/-- Word `w` of a code: its bits 32w .. 32w+31, the first in bit 0 (R185). -/
def codeWord (w : Nat) (code : Bits) : Word := BitVec.ofNat 32 (bitsNat ((code.drop (32 * w)).take 32))

/-- HUF_TBLRD (R185). -/
def execHufTblrd (sym : Byte) (w : Word) (s : State) : Result :=
  start Params.hw (.hufTblrd sym w) s fun s =>
    if 7 < w.toNat then faultNoEffect .badOperand s
    else
      match Symtab.lookup s.symtab sym with
      | some code => complete ((s.withRes0 (lowWord code.length)).withRes1 (codeWord w.toNat code))
      | none => complete ((s.withRes0 0).withRes1 0)

end Sys2Proof.Machine
end

