-- ==== Sys2Proof/Machine/Archive.lean ====
section
/-! DEFINITION. The archive commands (spec/45_archive.md R325 to R347). -/

namespace Sys2Proof.Machine

open Sys2Proof

/-- STATUS.ARC_W <- w and STATUS.ARC_R <- r. -/
def State.withArcState (s : State) (w r : Bool) : State :=
  s.withStatus (statusPutArcR r (statusPutArcW w s.csr.status))

/-- ARC_BEGIN (R340). -/
def execArcBegin (s : State) : Result :=
  start Params.hw .arcBegin s fun s =>
    if !s.flagsLegal then faultNoEffect .badConfig s
    else
      let fl : Byte := (s.csr.flags.extractLsb' 0 2).setWidth 8
      complete (((((s.withArch (Mem.writeBytes 0 [fl, 0, 0, 0, 0] s.arch)).withArchLen 5).withArcFlags
        (fl.setWidth 32)).withTreePtr 0).withArcState true false)

/-- The length of the region a file has whatever its code lengths: what ARC_PUTFILE would write (R341, R393). -/
def regionLength (p : Params) (c : PipeConfig) (file : List Byte) : Nat :=
  (serStream p c.blockSize (packStages p c file)).length

/-- The configuration checks of ARC_PUTFILE (R341). -/
def State.putfileConfigLegal (s : State) : Bool :=
  s.blockSizeLegal && s.maxCodeLenLegal && (!s.arcLz || s.windowLegal) && (!s.arcLz || s.maxMatchLegal)

/-- ARC_PUTFILE (R341). -/
def arcPutfile (p : Params) (s : State) : Result :=
  start p .arcPutfile s fun s =>
    if !statusArcW s.csr.status then faultNoEffect .arcSequence s
    else if !s.putfileConfigLegal then faultNoEffect .badConfig s
    else
      let file := leadingBytes s.inq
      let at0 := s.csr.archLen.toNat
      match packFile p s.pipe file with
      | .error c => faultAfterInput p c [(at0, regionLength p s.pipe file)] s
      | .ok region =>
        if p.archSize < at0 + region.length then faultAfterInput p .arcFull [(at0, region.length)] s
        else
          let table := lastTable p s.pipe.blockSize (packStages p s.pipe file)
          complete ((((((s.withInq (afterEos s.inq)).withArch (Mem.writeBytes at0 region s.arch)).withArchLen
            (lowWord (at0 + region.length))).withLastTable table).withCounts at0 region.length file.length).withRes3
            (highWord file.length))

/-- ARC_PUTTREE (R342). -/
def arcPuttree (p : Params) (s : State) : Result :=
  start p .arcPuttree s fun s =>
    if !statusArcW s.csr.status then faultNoEffect .arcSequence s
    else
      let body := leadingBytes s.inq
      let at0 := s.csr.archLen.toNat
      let total := at0 + 4 + body.length
      if p.archSize < total then faultAfterInput p .arcFull [(at0, 4 + body.length), (1, 4)] s
      else
        let arch := Mem.writeBytes 1 (be32 at0) (Mem.writeBytes at0 (be32 body.length ++ body) s.arch)
        complete (((((((s.withInq (afterEos s.inq)).withArch arch).withArchLen (lowWord total)).withTreePtr
          (lowWord at0)).withStatus (statusPutArcW false s.csr.status)).withRes0 (lowWord at0)).withRes1
          (lowWord total))

/-- ARC_LOAD (R343). -/
def arcLoad (p : Params) (s : State) : Result :=
  start p .arcLoad s fun s =>
    let bs := leadingBytes s.inq
    if p.archSize < bs.length then faultAfterInput p .arcFull [(0, bs.length)] s
    else
      complete (((((((s.withInq (afterEos s.inq)).withArch (Mem.writeBytes 0 bs s.arch)).withArchLen
        (lowWord bs.length)).withArcFlags 0).withTreePtr 0).withArcState false false).withRes0 (lowWord bs.length))

/-- ARC_PUTFILE on this hardware. -/
def execArcPutfile (s : State) : Result := arcPutfile Params.hw s

/-- ARC_PUTTREE on this hardware. -/
def execArcPuttree (s : State) : Result := arcPuttree Params.hw s

/-- ARC_LOAD on this hardware. -/
def execArcLoad (s : State) : Result := arcLoad Params.hw s

/-- ARC_OPEN (R344). -/
def execArcOpen (s : State) : Result :=
  start Params.hw .arcOpen s fun s =>
    let len := s.csr.archLen.toNat
    if len < 9 then faultNoEffect .arcBadHeader s
    else withBytes (s.memRead 0 5) fun header =>
      let fl := header.headD 0
      let tree := readBE32 (header.drop 1)
      if fl.extractLsb' 2 6 ≠ 0 then faultNoEffect .arcBadHeader s
      else if tree < 5 ∨ len < tree + 4 then faultNoEffect .arcBadHeader s
      else withBytes (s.memRead tree 4) fun field =>
        let treeLen := readBE32 field
        if tree + 4 + treeLen ≠ len then faultNoEffect .arcBadHeader s
        else
          let st := statusPutQexh false (statusPutArcW false (statusPutArcR true s.csr.status))
          complete (((((s.withArcFlags (fl.setWidth 32)).withTreePtr (lowWord tree)).withStatus st).withRes0
            (lowWord (tree + 4))).withRes1 (lowWord treeLen))

/-- ARC_GETTREE (R345). -/
def execArcGettree (s : State) : Result :=
  start Params.hw .arcGettree s fun s =>
    if !statusArcR s.csr.status then faultNoEffect .arcSequence s
    else
      let tree := s.csr.treePtr.toNat
      withBytes (s.memRead tree 4) fun field =>
        let treeLen := readBE32 field
        withBytes (s.memRead (tree + 4) treeLen) fun body =>
          complete ((s.pushOut body).withRes0 (lowWord treeLen))

/-- What `quotaWrite` leaves in the state (R329). -/
def State.afterQuotaWrite (s : State) (w : QuotaWrite) : State :=
  ((s.pushOut w.out).withQuota w.quota).withStatus
    (if w.suppressed then statusPutQexh true s.csr.status else s.csr.status)

/-- ARC_GETFILE (R346). -/
def arcGetfile (p : Params) (s : State) : Result :=
  start p .arcGetfile s fun s =>
    if !statusArcR s.csr.status then faultNoEffect .arcSequence s
    else if !s.maxCodeLenLegal then faultNoEffect .badConfig s
    else if s.arcLz && !s.windowLegal then faultNoEffect .badConfig s
    else
      let off := s.csr.arg0.toNat
      let len := s.csr.arg1.toNat
      if off < 5 ∨ s.csr.treePtr.toNat < off + len then faultNoEffect .arcBadRange s
      else withBytes (s.memRead off len) fun region =>
        match unpackFile p s.pipe region with
        | .error c => faultAfterInput p c [] s
        | .ok (file, ts) =>
          if file.length ≠ s.fileSize then faultAfterInput p .arcSizeMismatch [] s
          else
            let w := quotaWrite file s.quota
            complete (((((s.afterQuotaWrite w).withLastTable ts.getLast?).withRes0 (lowWord file.length)).withRes1
              (highWord file.length)).withRes2 (lowWord w.written) |>.withRes3 (highWord w.written))

/-- ARC_GETFILE on this hardware. -/
def execArcGetfile (s : State) : Result := arcGetfile Params.hw s

/-- ARC_DUMP (R347). -/
def execArcDump (s : State) : Result :=
  start Params.hw .arcDump s fun s =>
    withBytes (s.memRead 0 s.csr.archLen.toNat) fun bs =>
      complete ((s.pushOut bs).withRes0 s.csr.archLen)

end Sys2Proof.Machine
end

