-- ==== Sys2Proof/Machine/BitBuffer.lean ====
section
/-! DEFINITION. The bit-buffer commands (spec/40_bitbuffer.md R141 to R152). Those that depend on P_BB_CAPACITY are
written for any parameters, and the command of this hardware takes `Params.hw`. -/

namespace Sys2Proof.Machine

open Sys2Proof

/-- The FIFO of completed bytes is full (R145). -/
def BitBuffer.full (p : Params) (bb : BitBuffer) : Bool := decide (bb.q.length = p.bbCapacity)

/-- BB_PUTBYTE (R146). -/
def bbPutbyte (p : Params) (v : Byte) (s : State) : Result :=
  start p (.bbPutbyte v) s fun s =>
    if s.bb.pc ≠ 0 then faultNoEffect .bbMixed s
    else if s.bb.full p then faultNoEffect .bbFull s
    else complete (s.withBb { s.bb with q := s.bb.q ++ [v] })

/-- BB_PUTBIT (R147). -/
def bbPutbit (p : Params) (a : Byte) (s : State) : Result :=
  start p (.bbPutbit a) s fun s =>
    if 1 < a.toNat then faultNoEffect .badOperand s
    else if s.bb.pc = 7 ∧ s.bb.full p = true then faultNoEffect .bbFull s
    else
      let pv := s.bb.pv ||| (a <<< s.bb.pc.val)
      if s.bb.pc = 7 then complete (s.withBb { s.bb with q := s.bb.q ++ [pv], pv := 0, pc := 0 })
      else complete (s.withBb { s.bb with pv := pv, pc := s.bb.pc + 1 })

/-- BB_FLUSH (R148, R144). -/
def bbFlush (p : Params) (s : State) : Result :=
  start p .bbFlush s fun s =>
    if s.bb.pc = 0 then complete (s.withRes0 0)
    else if s.bb.full p then faultNoEffect .bbFull s
    else
      complete ((s.withBb { s.bb with q := s.bb.q ++ [s.bb.pv], pv := 0, pc := 0 }).withRes0
        (lowWord s.bb.pc.val))

/-- BB_PUTBYTE on this hardware. -/
def execBbPutbyte (v : Byte) (s : State) : Result := bbPutbyte Params.hw v s

/-- BB_PUTBIT on this hardware. -/
def execBbPutbit (a : Byte) (s : State) : Result := bbPutbit Params.hw a s

/-- BB_FLUSH on this hardware. -/
def execBbFlush (s : State) : Result := bbFlush Params.hw s

/-- BB_GETBIT (R149). -/
def execBbGetbit (s : State) : Result :=
  start Params.hw .bbGetbit s fun s =>
    match s.bb.q with
    | [] => faultNoEffect .bbEmpty s
    | b :: rest =>
      let bit : Word := ((b >>> s.bb.r.val) &&& 1#8).setWidth 32
      if s.bb.r = 7 then complete ((s.withBb { s.bb with q := rest, r := 0 }).withRes0 bit)
      else complete ((s.withBb { s.bb with r := s.bb.r + 1 }).withRes0 bit)

/-- BB_GETBYTE (R150). -/
def execBbGetbyte (s : State) : Result :=
  start Params.hw .bbGetbyte s fun s =>
    match s.bb.q with
    | [] => faultNoEffect .bbEmpty s
    | b :: rest =>
      if s.bb.r ≠ 0 then faultNoEffect .bbMixed s
      else complete ((s.withBb { s.bb with q := rest }).withRes0 (b.setWidth 32))

/-- BB_AVAIL (R151). -/
def execBbAvail (t : Word) (s : State) : Result :=
  start Params.hw (.bbAvail t) s fun s =>
    complete (s.withRes0 (if t.toNat < s.bb.bits then 1 else 0))

/-- BB_CLEAR (R152). -/
def execBbClear (s : State) : Result :=
  start Params.hw .bbClear s fun s => complete (s.withBb BitBuffer.empty)

end Sys2Proof.Machine
end

