-- ==== Sys2Proof/Machine/Cipher.lean ====
section
/-! DEFINITION. The cipher commands (spec/44_cipher.md R303, R304). -/

namespace Sys2Proof.Machine

open Sys2Proof

/-- CIPH_ENC (R303). -/
def ciphEnc (p : Params) (s : State) : Result :=
  start p .ciphEnc s fun s =>
    let stream := leadingBytes s.inq
    complete (((s.withInq (afterEos s.inq)).pushOut (cipherEnc p s.seed stream)).withRes0 (lowWord stream.length))

/-- CIPH_DEC (R304). -/
def ciphDec (p : Params) (s : State) : Result :=
  start p .ciphDec s fun s =>
    let stream := leadingBytes s.inq
    complete (((s.withInq (afterEos s.inq)).pushOut (cipherDec p s.seed stream)).withRes0 (lowWord stream.length))

/-- CIPH_ENC on this hardware. -/
def execCiphEnc (s : State) : Result := ciphEnc Params.hw s

/-- CIPH_DEC on this hardware. -/
def execCiphDec (s : State) : Result := ciphDec Params.hw s

end Sys2Proof.Machine
end

