-- ==== Sys2Proof/Machine/Control.lean ====
section
/-! DEFINITION. The control commands (spec/46_control.md R380 to R383). -/

namespace Sys2Proof.Machine

open Sys2Proof

/-- NOP (R380). -/
def execNop (s : State) : Result := start Params.hw .nop s complete

/-- RESET (R381), the only command that clears a fault (R394). -/
def execReset (s : State) : Result := start Params.hw .reset s fun s => complete s.resetBlock

/-- CSR_WR (R382). -/
def execCsrWr (n : Byte) (v : Word) (s : State) : Result :=
  start Params.hw (.csrWr n v) s fun s =>
    match csrOf n with
    | none => faultNoEffect .badOperand s
    | some c => if c.writable then complete (s.writeCsr c v) else faultNoEffect .badOperand s

/-- CSR_RD (R383). -/
def execCsrRd (n : Byte) (s : State) : Result :=
  start Params.hw (.csrRd n) s fun s =>
    match csrOf n with
    | none => faultNoEffect .badOperand s
    | some c => complete (s.withRes0 (s.readCsr c))

end Sys2Proof.Machine
end

