-- ==== Sys2Proof/Machine/Lz77.lean ====
section
/-! DEFINITION. The LZ77 stream commands (spec/42_lz77.md R230 to R232) and the record commands
(spec/43_converters.md R280, R281). -/

namespace Sys2Proof.Machine

open Sys2Proof

/-- LZ_ENC (R230, R232). -/
def lzEnc (p : Params) (s : State) : Result :=
  start p .lzEnc s fun s =>
    if !s.windowLegal then faultNoEffect .badConfig s
    else if !s.maxMatchLegal then faultNoEffect .badConfig s
    else
      let stream := leadingBytes s.inq
      let recs := lzEncode p.lzOverlap stream s.csr.lzWindow.toNat s.csr.lzMaxMatch.toNat
      let out := lzSerialize recs
      complete (((s.withInq (afterEos s.inq)).pushOut out).withCounts stream.length out.length recs.length)

/-- LZ_DEC (R231, R232). -/
def lzDec (p : Params) (s : State) : Result :=
  start p .lzDec s fun s =>
    if !s.windowLegal then faultNoEffect .badConfig s
    else
      let bs := leadingBytes s.inq
      match lzDecodeBytes s.csr.lzWindow.toNat bs with
      | .error c => faultAfterInput p c [] s
      | .ok out =>
        complete (((s.withInq (afterEos s.inq)).pushOut out).withCounts bs.length out.length (bs.length / 2))

/-- LZREC_GET (R281). -/
def lzrecGet (p : Params) (s : State) : Result :=
  start p .lzrecGet s fun s =>
    match s.inq with
    | .eos :: rest => streamExhausted rest s
    | .byte b0 :: .byte b1 :: rest =>
      if b0 ≠ 0 ∧ b1 = 0 then faultAfterInput p .lzBadCopy [] s
      else complete ((((s.withInq rest).withRes0 (b0.setWidth 32)).withRes1 (b1.setWidth 32)).withRes2 0)
    | _ => faultAfterInput p .lzTruncated [] s

/-- LZ_ENC on this hardware. -/
def execLzEnc (s : State) : Result := lzEnc Params.hw s

/-- LZ_DEC on this hardware. -/
def execLzDec (s : State) : Result := lzDec Params.hw s

/-- LZREC_GET on this hardware. -/
def execLzrecGet (s : State) : Result := lzrecGet Params.hw s

/-- LZREC_PUT (R280); the item or length is IMM[7:0]. -/
def execLzrecPut (d : Byte) (imm : Word) (s : State) : Result :=
  start Params.hw (.lzrecPut d imm) s fun s =>
    let v : Byte := imm.setWidth 8
    if d ≠ 0 ∧ v = 0 then faultNoEffect .badOperand s
    else complete (s.pushOut [d, v])

end Sys2Proof.Machine
end

