-- ==== Sys2Proof/Machine/Dispatch.lean ====
section
/-! DEFINITION. The meaning of every command, one arm per row of spec/opcode_table.json. -/

namespace Sys2Proof.Machine

open Sys2Proof

def exec (i : Instr) (s : State) : Host.Outcome State Fault Refusal :=
  match i with
  | .nop => Sys2Proof.Machine.execNop s
  | .reset => Sys2Proof.Machine.execReset s
  | .csrWr n v => Sys2Proof.Machine.execCsrWr n v s
  | .csrRd n => Sys2Proof.Machine.execCsrRd n s
  | .bbPutbyte v => Sys2Proof.Machine.execBbPutbyte v s
  | .bbPutbit a => Sys2Proof.Machine.execBbPutbit a s
  | .bbFlush => Sys2Proof.Machine.execBbFlush s
  | .bbGetbit => Sys2Proof.Machine.execBbGetbit s
  | .bbGetbyte => Sys2Proof.Machine.execBbGetbyte s
  | .bbAvail t => Sys2Proof.Machine.execBbAvail t s
  | .bbClear => Sys2Proof.Machine.execBbClear s
  | .hufEncblk => Sys2Proof.Machine.execHufEncblk s
  | .hufDecblk => Sys2Proof.Machine.execHufDecblk s
  | .hufEnc => Sys2Proof.Machine.execHufEnc s
  | .hufDec => Sys2Proof.Machine.execHufDec s
  | .hufTblrd sym w => Sys2Proof.Machine.execHufTblrd sym w s
  | .lzEnc => Sys2Proof.Machine.execLzEnc s
  | .lzDec => Sys2Proof.Machine.execLzDec s
  | .lzrecPut d imm => Sys2Proof.Machine.execLzrecPut d imm s
  | .lzrecGet => Sys2Proof.Machine.execLzrecGet s
  | .ciphEnc => Sys2Proof.Machine.execCiphEnc s
  | .ciphDec => Sys2Proof.Machine.execCiphDec s
  | .arcBegin => Sys2Proof.Machine.execArcBegin s
  | .arcPutfile => Sys2Proof.Machine.execArcPutfile s
  | .arcPuttree => Sys2Proof.Machine.execArcPuttree s
  | .arcLoad => Sys2Proof.Machine.execArcLoad s
  | .arcOpen => Sys2Proof.Machine.execArcOpen s
  | .arcGettree => Sys2Proof.Machine.execArcGettree s
  | .arcGetfile => Sys2Proof.Machine.execArcGetfile s
  | .arcDump => Sys2Proof.Machine.execArcDump s

end Sys2Proof.Machine
end

