-- ==== Sys2Proof/Machine/Step.lean ====
section
/-! DEFINITION. One step of the block and its host, and the command word placed for the next step. -/

namespace Sys2Proof.Machine

open Sys2Proof

/-- One step: with no command on the port, or with a held one, the host's next action (R62, R77); otherwise the
command on the port runs, as one atomic step (R68). -/
def step (s : State) : Host.Outcome State Fault Refusal :=
  match s.port with
  | none => .next s.hostAct
  | some w =>
    if heldWord Params.hw w s then .next s.hostAct
    else
      match decode w with
      | .ok i => exec i s
      | .error _ => illegalWord s

/-- `s` with a command word written to the command port (R62 a). -/
def State.withFetchWord (s : State) (nbits w : Nat) : State :=
  { s with port := some (BitVec.ofNat 64 (w % 2 ^ nbits)) }

end Sys2Proof.Machine
end

