-- ==== Sys2Proof/Safety.lean ====
section
/-! DEFINITION. What counts as a sound state and a safe step, in the terms the statements use: the invariants that
spec/10_state.md R23, R33, R34, R41, R42, spec/20_memory.md R60, R61 and spec/45_archive.md R331, R344, R345 give. -/

namespace Sys2Proof.Machine

open Sys2Proof

/-- R41: at most P_BB_CAPACITY bytes; an empty FIFO has no partly read head; the pending group of `pc` bits has
`pv[7:pc] = 0`, so that `pc = 0` implies `pv = 0`. -/
structure BitBuffer.Sound (p : Params) (bb : BitBuffer) : Prop where
  fits : bb.q.length ≤ p.bbCapacity
  emptyUnread : bb.q = [] → bb.r = 0
  pending : bb.pv.toNat < 2 ^ bb.pc.val

/-- R42: a map, in its canonical form, whose codes have 1 to 255 bits. -/
structure Symtab.Sound (t : Symtab) : Prop where
  sorted : Symtab.sorted t = true
  codesFit : Symtab.codesFit t = true

/-- R23 and R391: bits 7:4 and 31:16 read 0; FAULT_CODE is 0 when FAULT = 0 and a code of R391 when FAULT = 1; and
ARC_W and ARC_R are never both 1, since each of ARC_BEGIN and ARC_OPEN sets one and clears the other. -/
structure StatusSound (st : Word) : Prop where
  reserved : st &&& 0xFFFF00F0#32 = 0
  clean : statusFault st = false → statusFaultCode st = 0
  coded : statusFault st = true → ∃ c : FaultCode, statusFaultCode st = c.code
  exclusive : ¬(statusArcW st = true ∧ statusArcR st = true)

/-- An opened archive is framed as ARC_OPEN found it (R344, R345): the tree region ends it. -/
def State.treeFramed (s : State) : Prop :=
  5 ≤ s.csr.treePtr.toNat ∧
    ∃ field, Mem.readBytes s.arch s.csr.treePtr.toNat 4 = some field ∧
      s.csr.treePtr.toNat + 4 + readBE32 field = s.csr.archLen.toNat

/-- ARCH_MEM and the registers that describe it (R33, R34, R40, R60, R61). -/
structure ArchSound (p : Params) (s : State) : Prop where
  canonical : Mem.wf s.arch = true
  within : Mem.within p.archSize s.arch = true
  lengthFits : s.csr.archLen.toNat ≤ p.archSize
  written : ∀ a, a < s.csr.archLen.toNat → (Mem.read s.arch a).isSome = true
  flagBits : s.csr.arcFlags.toNat < 4
  building : statusArcW s.csr.status = true → 5 ≤ s.csr.archLen.toNat
  opened : s.faulted = false → statusArcR s.csr.status = true → s.treeFramed

/-- The invariant of the block: what every reachable state satisfies. -/
structure Inv (p : Params) (s : State) : Prop where
  bb : BitBuffer.Sound p s.bb
  symtab : Symtab.Sound s.symtab
  status : StatusSound s.csr.status
  arch : ArchSound p s

/-- The step answers a next state: the model neither stops with a fault of its own nor refuses. -/
def Runs (r : Result) : Prop := ∃ t, r = .next t

/-! ### Terms of the statements -/

/-- The bits that can be popped, next first (R143). -/
def BitBuffer.readable (bb : BitBuffer) : Bits := (unpack bb.q).drop bb.r.val

/-- The pending bits, oldest first (R41). -/
def BitBuffer.pending (bb : BitBuffer) : Bits := (byteBits bb.pv).take bb.pc.val

/-- `a` comes before `b` by (weight, seq): the lower weight, and among equal weights the lower seq (R172). -/
def QueueNode.Precedes (a b : QueueNode) : Prop := a.weight < b.weight ∨ (a.weight = b.weight ∧ a.seq < b.seq)

/-- The merging of R172, as a relation: `nodes`, with `seq` the next insertion number, merge to one `tree`. Each round
takes out `a`, which precedes every other node, then `b`, which precedes the rest, and puts in their sum, `a` to the
left. -/
inductive MergesTo : Nat → List QueueNode → CodeTree → Prop where
  | root (seq : Nat) (n : QueueNode) : MergesTo seq [n] n.tree
  | merge (seq : Nat) (nodes : List QueueNode) (a b : QueueNode) (others : List QueueNode) (tree : CodeTree) :
      nodes.Perm (a :: b :: others) → (∀ m ∈ b :: others, a.Precedes m) → (∀ m ∈ others, b.Precedes m) →
      MergesTo (seq + 1) (others ++ [⟨a.weight + b.weight, seq, .node a.tree b.tree⟩]) tree →
      MergesTo seq nodes tree

/-- The symbol of the leaf that a path from the root ends at, 0 to the left and 1 to the right (R173). -/
def CodeTree.leafAt : CodeTree → Bits → Option Byte
  | .leaf s, [] => some s
  | .leaf _, _ :: _ => none
  | .node _ _, [] => none
  | .node left _, false :: path => left.leafAt path
  | .node _ right, true :: path => right.leafAt path

/-- The faults that have no other effect (R392). -/
def FaultCode.beforeInput : FaultCode → Bool
  | .illegalCmd | .badOperand | .badConfig | .bbMixed | .bbEmpty | .bbFull => true
  | .arcSequence | .arcBadRange | .arcBadHeader => true
  | .hufTruncated | .hufBadTable | .hufBadData | .hufCodeTooLong => false
  | .lzTruncated | .lzBadCopy | .arcFull | .arcSizeMismatch => false

end Sys2Proof.Machine

namespace Sys2Proof

open Machine

/-- The units of R2, one family of commands each. -/
inductive Family where
  | control
  | bitBuffer
  | huffman
  | lz77
  | record
  | cipher
  | archive
  deriving DecidableEq, Repr

/-- The family of a command (R94, column "family file"). -/
def Instr.family : Instr → Family
  | .nop | .reset | .csrWr _ _ | .csrRd _ => .control
  | .bbPutbyte _ | .bbPutbit _ | .bbFlush | .bbGetbit | .bbGetbyte | .bbAvail _ | .bbClear => .bitBuffer
  | .hufEncblk | .hufDecblk | .hufEnc | .hufDec | .hufTblrd _ _ => .huffman
  | .lzEnc | .lzDec => .lz77
  | .lzrecPut _ _ | .lzrecGet => .record
  | .ciphEnc | .ciphDec => .cipher
  | .arcBegin | .arcPutfile | .arcPuttree | .arcLoad => .archive
  | .arcOpen | .arcGettree | .arcGetfile | .arcDump => .archive

/-- The commands that write ARCH_MEM (R61). -/
def Instr.writesArch : Instr → Bool
  | .arcBegin | .arcPutfile | .arcPuttree | .arcLoad => true
  | .nop | .reset | .csrWr _ _ | .csrRd _ => false
  | .bbPutbyte _ | .bbPutbit _ | .bbFlush | .bbGetbit | .bbGetbyte | .bbAvail _ | .bbClear => false
  | .hufEncblk | .hufDecblk | .hufEnc | .hufDec | .hufTblrd _ _ => false
  | .lzEnc | .lzDec | .lzrecPut _ _ | .lzrecGet | .ciphEnc | .ciphDec => false
  | .arcOpen | .arcGettree | .arcGetfile | .arcDump => false

/-- The commands that may replace SYMTAB (R42), RESET among them (R381). -/
def Instr.writesSymtab : Instr → Bool
  | .hufEncblk | .hufDecblk | .hufEnc | .hufDec | .arcPutfile | .arcGetfile | .reset => true
  | .nop | .csrWr _ _ | .csrRd _ => false
  | .bbPutbyte _ | .bbPutbit _ | .bbFlush | .bbGetbit | .bbGetbyte | .bbAvail _ | .bbClear => false
  | .hufTblrd _ _ | .lzEnc | .lzDec | .lzrecPut _ _ | .lzrecGet | .ciphEnc | .ciphDec => false
  | .arcBegin | .arcPuttree | .arcLoad | .arcOpen | .arcGettree | .arcDump => false

/-- The faults a command can raise (R391, column "raised by"). -/
def Instr.raises : Instr → List FaultCode
  | .csrWr _ _ | .csrRd _ | .hufTblrd _ _ | .lzrecPut _ _ => [.badOperand]
  | .bbPutbyte _ => [.bbMixed, .bbFull]
  | .bbPutbit _ => [.badOperand, .bbFull]
  | .bbFlush => [.bbFull]
  | .bbGetbit => [.bbEmpty]
  | .bbGetbyte => [.bbEmpty, .bbMixed]
  | .hufEncblk | .hufEnc => [.badConfig, .hufCodeTooLong]
  | .hufDecblk | .hufDec => [.badConfig, .hufTruncated, .hufBadTable, .hufBadData]
  | .lzEnc | .arcBegin => [.badConfig]
  | .lzDec => [.badConfig, .lzTruncated, .lzBadCopy]
  | .lzrecGet => [.lzTruncated, .lzBadCopy]
  | .arcPutfile => [.arcSequence, .badConfig, .hufCodeTooLong, .arcFull]
  | .arcPuttree => [.arcSequence, .arcFull]
  | .arcLoad => [.arcFull]
  | .arcOpen => [.arcBadHeader]
  | .arcGettree => [.arcSequence]
  | .arcGetfile => [.arcSequence, .badConfig, .arcBadRange, .hufTruncated, .hufBadTable, .hufBadData,
      .lzTruncated, .lzBadCopy, .arcSizeMismatch]
  | .nop | .reset | .bbAvail _ | .bbClear | .ciphEnc | .ciphDec | .arcDump => []

end Sys2Proof

namespace Sys2Proof.Machine

open Sys2Proof

/-- The (start, length) ranges of ARCH_MEM that a command writes or, where it faults, would have written (R61,
R393). -/
def State.writeRanges (p : Params) (s : State) : Instr → List (Nat × Nat)
  | .arcBegin => [(0, 5)]
  | .arcPutfile => [(s.csr.archLen.toNat, regionLength p s.pipe (leadingBytes s.inq))]
  | .arcPuttree => [(s.csr.archLen.toNat, 4 + (leadingBytes s.inq).length), (1, 4)]
  | .arcLoad => [(0, (leadingBytes s.inq).length)]
  | .nop | .reset | .csrWr _ _ | .csrRd _ => []
  | .bbPutbyte _ | .bbPutbit _ | .bbFlush | .bbGetbit | .bbGetbyte | .bbAvail _ | .bbClear => []
  | .hufEncblk | .hufDecblk | .hufEnc | .hufDec | .hufTblrd _ _ => []
  | .lzEnc | .lzDec | .lzrecPut _ _ | .lzrecGet | .ciphEnc | .ciphDec => []
  | .arcOpen | .arcGettree | .arcGetfile | .arcDump => []

/-- `t` is the state `s` after a fault with no other effect (R390, R392), of a command that was on the port. -/
def FaultsWith (c : FaultCode) (s t : State) : Prop :=
  t = { s with
    csr := { s.csr with status := statusPutFault c.code s.csr.status }
    port := none
    retired := s.retired + 1 }

/-- `t` is a state that R393 permits after command `i` faults while or after it reads input: STATUS records the
fault; bytes may have been appended to OUT; tokens up to and including the first EOS may be gone from IN; RES0 to
RES3 and the bytes of the write ranges are open; everything else is as it was. -/
def FaultsOpen (p : Params) (i : Instr) (c : FaultCode) (s t : State) : Prop :=
  (∃ bs, t.outq = s.outq ++ bs) ∧
  (∃ k, k ≤ streamTokens s.inq ∧ t.inq = s.inq.drop k) ∧
  (∀ a, (∀ r ∈ s.writeRanges p i, a < r.1 ∨ r.1 + r.2 ≤ a) → Mem.read t.arch a = Mem.read s.arch a) ∧
  t = { s with
    inq := t.inq
    outq := t.outq
    arch := t.arch
    csr := { s.csr with
      status := statusPutFault c.code s.csr.status
      res0 := t.csr.res0
      res1 := t.csr.res1
      res2 := t.csr.res2
      res3 := t.csr.res3 }
    port := none
    retired := s.retired + 1
    choice := s.choice + 1 }

end Sys2Proof.Machine
end

