-- ==== Sys2Proof/Certificates/Slice0/Obligations.lean ====
section
/-! DEFINITION. The statements about the model, for the provers. Each docstring names the rules of spec/ that its
statement formalises. "Completes" means that `exec` answers a next state in which the command has left the command
port and the count of commands has advanced by one (R45, R62 a). -/

open Sys2Proof Sys2Proof.Machine

/-! ### Encoding -/

/-- Decoding the word of any well-formed command gives that command back (R91, R94, R95). -/
def Obligations.DecodeEncodeRoundTrip : Prop :=
  ∀ i : Instr, i.wellFormed = true → decode (encode i) = .ok i

/-- A word that decodes is the encoding of what it decodes to, `OPC + A * 2^8 + IMM * 2^32` (R92 (3), R95). -/
def Obligations.DecodedWordIsItsEncoding : Prop :=
  ∀ (w : CommandWord) (i : Instr), decode w = .ok i →
    i.wellFormed = true ∧ encode i = w ∧
      w.toNat = i.opcode.toNat + i.operandA.toNat * 2 ^ 8 + i.operandImm.toNat * 2 ^ 32

/-- The opcode map, row by row: a word selects a row's command exactly when its fixed bits, those of the row's
mask, hold the opcode and nothing else; the operands are the fields A and IMM (R90, R94). -/
def Obligations.OpcodeMapRows : Prop :=
  ∀ w : CommandWord,
    (w &&& 0xFFFFFFFFFFFFFFFF = 0x00 ↔ decode w = .ok .nop) ∧
    (w &&& 0xFFFFFFFFFFFFFFFF = 0x01 ↔ decode w = .ok .reset) ∧
    (w &&& 0x00000000FFFF00FF = 0x02 ↔ decode w = .ok (.csrWr (w.extractLsb' 8 8) (w.extractLsb' 32 32))) ∧
    (w &&& 0xFFFFFFFFFFFF00FF = 0x03 ↔ decode w = .ok (.csrRd (w.extractLsb' 8 8))) ∧
    (w &&& 0xFFFFFFFFFFFF00FF = 0x10 ↔ decode w = .ok (.bbPutbyte (w.extractLsb' 8 8))) ∧
    (w &&& 0xFFFFFFFFFFFF00FF = 0x11 ↔ decode w = .ok (.bbPutbit (w.extractLsb' 8 8))) ∧
    (w &&& 0xFFFFFFFFFFFFFFFF = 0x12 ↔ decode w = .ok .bbFlush) ∧
    (w &&& 0xFFFFFFFFFFFFFFFF = 0x13 ↔ decode w = .ok .bbGetbit) ∧
    (w &&& 0xFFFFFFFFFFFFFFFF = 0x14 ↔ decode w = .ok .bbGetbyte) ∧
    (w &&& 0x00000000FFFFFFFF = 0x15 ↔ decode w = .ok (.bbAvail (w.extractLsb' 32 32))) ∧
    (w &&& 0xFFFFFFFFFFFFFFFF = 0x16 ↔ decode w = .ok .bbClear) ∧
    (w &&& 0xFFFFFFFFFFFFFFFF = 0x20 ↔ decode w = .ok .hufEncblk) ∧
    (w &&& 0xFFFFFFFFFFFFFFFF = 0x21 ↔ decode w = .ok .hufDecblk) ∧
    (w &&& 0xFFFFFFFFFFFFFFFF = 0x22 ↔ decode w = .ok .hufEnc) ∧
    (w &&& 0xFFFFFFFFFFFFFFFF = 0x23 ↔ decode w = .ok .hufDec) ∧
    (w &&& 0x00000000FFFF00FF = 0x24 ↔ decode w = .ok (.hufTblrd (w.extractLsb' 8 8) (w.extractLsb' 32 32))) ∧
    (w &&& 0xFFFFFFFFFFFFFFFF = 0x30 ↔ decode w = .ok .lzEnc) ∧
    (w &&& 0xFFFFFFFFFFFFFFFF = 0x31 ↔ decode w = .ok .lzDec) ∧
    (w &&& 0xFFFFFF00FFFF00FF = 0x32 ↔ decode w = .ok (.lzrecPut (w.extractLsb' 8 8) (w.extractLsb' 32 32))) ∧
    (w &&& 0xFFFFFFFFFFFFFFFF = 0x33 ↔ decode w = .ok .lzrecGet) ∧
    (w &&& 0xFFFFFFFFFFFFFFFF = 0x40 ↔ decode w = .ok .ciphEnc) ∧
    (w &&& 0xFFFFFFFFFFFFFFFF = 0x41 ↔ decode w = .ok .ciphDec) ∧
    (w &&& 0xFFFFFFFFFFFFFFFF = 0x50 ↔ decode w = .ok .arcBegin) ∧
    (w &&& 0xFFFFFFFFFFFFFFFF = 0x51 ↔ decode w = .ok .arcPutfile) ∧
    (w &&& 0xFFFFFFFFFFFFFFFF = 0x52 ↔ decode w = .ok .arcPuttree) ∧
    (w &&& 0xFFFFFFFFFFFFFFFF = 0x53 ↔ decode w = .ok .arcLoad) ∧
    (w &&& 0xFFFFFFFFFFFFFFFF = 0x54 ↔ decode w = .ok .arcOpen) ∧
    (w &&& 0xFFFFFFFFFFFFFFFF = 0x55 ↔ decode w = .ok .arcGettree) ∧
    (w &&& 0xFFFFFFFFFFFFFFFF = 0x56 ↔ decode w = .ok .arcGetfile) ∧
    (w &&& 0xFFFFFFFFFFFFFFFF = 0x57 ↔ decode w = .ok .arcDump)

/-- Words that spec/ writes out decode to the commands it writes beside them (R95, R146, R280, R340, R382, R383). -/
def Obligations.SpecWordsDecode : Prop :=
  decode 0x0000000800001002 = .ok (.csrWr 0x10 8) ∧
    decode 0x0000000000001003 = .ok (.csrRd 0x10) ∧
    decode 0x000000000000A510 = .ok (.bbPutbyte 0xA5) ∧
    decode 0x0000000300000232 = .ok (.lzrecPut 2 3) ∧
    decode 0x0000000000000050 = .ok .arcBegin

/-! ### The step -/

/-- The command on the port, decoded, is what the step runs; the step adds nothing around it (R68, R90). -/
def Obligations.StepRunsTheDecodedCommand : Prop :=
  ∀ (s : State) (w : CommandWord) (i : Instr), s.port = some w → decode w = .ok i →
    held Params.hw i s = false → step s = exec i s

/-- A word that is no command, an unassigned opcode among them, faults ILLEGAL_CMD and changes STATUS alone
(R92, R93, R392). -/
def Obligations.IllegalWordFaults : Prop :=
  (∀ w : CommandWord,
    (w.extractLsb' 0 8).toNat ∉ [0x00, 0x01, 0x02, 0x03, 0x10, 0x11, 0x12, 0x13, 0x14, 0x15, 0x16, 0x20, 0x21,
      0x22, 0x23, 0x24, 0x30, 0x31, 0x32, 0x33, 0x40, 0x41, 0x50, 0x51, 0x52, 0x53, 0x54, 0x55, 0x56, 0x57] →
    ∀ i, decode w ≠ .ok i) ∧
  ∀ (s : State) (w : CommandWord), s.port = some w → s.faulted = false → (∀ i, decode w ≠ .ok i) →
    ∃ t, step s = .next t ∧ FaultsWith .illegalCmd s t

/-- A command that lacks its input changes nothing and stays where it is (R77 and the "Waits" lines of R180 to R183,
R230, R231, R281, R303, R304, R341 to R343). That this holds whatever the configuration and the archive state are, so
that the wait comes before those checks, is the model's reading (log entry 3, DEDUCED, unsafe); that `exec` of a held
command answers the state it was given is log entry 11; what HUF_DECBLK waits for is log entry 4 (DEDUCED, unsafe). -/
def Obligations.HeldCommandChangesNothing : Prop :=
  ∀ s : State, s.faulted = false → Token.eos ∉ s.inq →
    (∀ i ∈ [Instr.hufEnc, .hufDec, .lzEnc, .lzDec, .ciphEnc, .ciphDec, .arcPutfile, .arcPuttree, .arcLoad],
      exec i s = .next s) ∧
    (s.inq.length < s.csr.hufBlockSize.toNat → exec .hufEncblk s = .next s) ∧
    (parseBlock Params.hw s.csr.hufMaxCodeLen.toNat (leadingBytes s.inq) = .error .hufTruncated →
      exec .hufDecblk s = .next s) ∧
    (s.inq.length < 2 → exec .lzrecGet s = .next s)

/-- With no command on the port, or a held one, the step is the host's next action, and an EOS lifts every hold
(R62, R77, R78, R430; log entries 1, 11 and 14 are the model's). -/
def Obligations.HostActsWhileTheBlockWaits : Prop :=
  ∀ s : State,
    (s.port = none ∨ ∃ w i, s.port = some w ∧ decode w = .ok i ∧ held Params.hw i s = true) →
    (s.hostq = [] → step s = .next s) ∧
    (∀ w rest, s.hostq = .command w :: rest → s.port = none →
      step s = .next { s with port := some w, hostq := rest }) ∧
    (∀ w rest, s.hostq = .command w :: rest → s.port ≠ none → step s = .next s) ∧
    (∀ ts rest, s.hostq = .append ts :: rest →
      step s = .next { s with inq := s.inq ++ ts, hostq := rest } ∧
        (Token.eos ∈ ts → ∀ i, held Params.hw i { s with inq := s.inq ++ ts, hostq := rest } = false)) ∧
    (∀ n rest, s.hostq = .take n :: rest → step s = .next { s with outq := s.outq.drop n, hostq := rest }) ∧
    (∀ rest, s.hostq = .powerOn :: rest →
      step s = .next { State.reset with hostq := rest, retired := s.retired, choice := s.choice })

/-- After power-on reset every CSR number reads 0, the streams, the bit buffer and SYMTAB are empty, and the block
waits for a command word (R22, R430); that no byte of ARCH_MEM has a value then is log entry 9. -/
def Obligations.PowerOnState : Prop :=
  (∀ n, State.reset.hostRead n = 0) ∧
    State.reset.inq = [] ∧ State.reset.outq = [] ∧ State.reset.symtab = [] ∧
    State.reset.bb = { q := [], r := 0, pv := 0, pc := 0 } ∧
    (∀ a, Mem.read State.reset.arch a = none) ∧
    State.reset.port = none ∧ step State.reset = .next State.reset

/-! ### Faults -/

/-- Fault entry: the first fault sets FAULT and records its code, and no other bit changes; a later one changes
nothing (R390); the codes (R391). -/
def Obligations.FaultEntryRecordsTheFirst : Prop :=
  (∀ (s : State) (c : FaultCode),
    (s.faulted = true → s.raise c = s) ∧
    (s.faulted = false → ∃ st : Word,
      s.raise c = { s with csr := { s.csr with status := st } } ∧
      st.getLsbD 0 = true ∧ st.extractLsb' 8 8 = c.code ∧
      ∀ j, j ≠ 0 → (j < 8 ∨ 16 ≤ j) → st.getLsbD j = s.csr.status.getLsbD j)) ∧
  FaultCode.illegalCmd.code = 0x01 ∧ FaultCode.badOperand.code = 0x02 ∧ FaultCode.badConfig.code = 0x03 ∧
  FaultCode.bbMixed.code = 0x10 ∧ FaultCode.bbEmpty.code = 0x11 ∧ FaultCode.bbFull.code = 0x12 ∧
  FaultCode.hufTruncated.code = 0x20 ∧ FaultCode.hufBadTable.code = 0x21 ∧ FaultCode.hufBadData.code = 0x22 ∧
  FaultCode.hufCodeTooLong.code = 0x23 ∧ FaultCode.lzTruncated.code = 0x30 ∧ FaultCode.lzBadCopy.code = 0x31 ∧
  FaultCode.arcBadHeader.code = 0x40 ∧ FaultCode.arcBadRange.code = 0x41 ∧ FaultCode.arcFull.code = 0x42 ∧
  FaultCode.arcSizeMismatch.code = 0x43 ∧ FaultCode.arcSequence.code = 0x44

/-- While STATUS.FAULT = 1 every command but RESET and CSR_RD, and every illegal word, completes at once with no
effect; RESET resets; CSR_RD reads, and of an unassigned CSR it changes nothing (R394). -/
def Obligations.FaultedBlockIgnoresCommands : Prop :=
  ∀ s : State, s.faulted = true →
    (∀ i, i ≠ .reset → (∀ n, i ≠ .csrRd n) →
      exec i s = .next { s with port := none, retired := s.retired + 1 }) ∧
    (∀ w i, s.port = some w → decode w = .ok i → i ≠ .reset → (∀ n, i ≠ .csrRd n) →
      step s = .next { s with port := none, retired := s.retired + 1 }) ∧
    (∀ w, s.port = some w → (∀ i, decode w ≠ .ok i) →
      step s = .next { s with port := none, retired := s.retired + 1 }) ∧
    exec .reset s = .next { s with
      csr := CsrFile.zero
      bb := { q := [], r := 0, pv := 0, pc := 0 }
      symtab := []
      inq := []
      port := none
      retired := s.retired + 1 } ∧
    (∀ c : Csr, exec (.csrRd c.number) s = .next { s with
      csr := { s.csr with res0 := s.readCsr c }
      port := none
      retired := s.retired + 1 }) ∧
    (∀ n : Byte, (∀ c : Csr, c.number ≠ n) →
      exec (.csrRd n) s = .next { s with port := none, retired := s.retired + 1 })

/-- Whatever command faults: the fault is one that R391 lists for it, and either it has no other effect or it has
one of the effects R393 permits (R390 to R393). -/
def Obligations.FaultEffects : Prop :=
  ∀ (i : Instr) (s t : State), s.faulted = false → exec i s = .next t → t.faulted = true →
    ∃ c ∈ i.raises,
      (c.beforeInput = true ∧ FaultsWith c s t) ∨ (c.beforeInput = false ∧ FaultsOpen Params.hw i c s t)

/-- An illegal configuration register at use faults BAD_CONFIG, and an archive command outside its state
ARC_SEQUENCE, with no other effect and before any token is taken (R26 to R30, R184, R232, R331, R341, R346). A command
whose rule waits for an EOS has one in IN; HUF_ENCBLK has an EOS or a whole block's tokens, HUF_DECBLK an EOS or bytes
that `parseBlock` does not run past (log entry 4); ARC_BEGIN, ARC_GETTREE and ARC_GETFILE wait for nothing. That the
check follows the wait is the model's reading (log entry 3, DEDUCED, unsafe). -/
def Obligations.PrechecksFault : Prop :=
  ∀ s : State, s.faulted = false →
    let ended := Token.eos ∈ s.inq
    let badBlock := s.csr.hufBlockSize.toNat < 1 ∨ 2 ^ 27 < s.csr.hufBlockSize.toNat
    let badMaxLen := s.csr.hufMaxCodeLen.toNat < 1 ∨ 255 < s.csr.hufMaxCodeLen.toNat
    let badWindow := s.csr.lzWindow.toNat < 1 ∨ 255 < s.csr.lzWindow.toNat
    let badMatch := s.csr.lzMaxMatch.toNat < 1 ∨ 255 < s.csr.lzMaxMatch.toNat
    let writing := statusArcW s.csr.status = true
    let reading := statusArcR s.csr.status = true
    let lz := s.csr.arcFlags.getLsbD 1 = true
    (ended ∨ s.csr.hufBlockSize.toNat ≤ (leadingBytes s.inq).length → badBlock ∨ badMaxLen →
      ∃ t, exec .hufEncblk s = .next t ∧ FaultsWith .badConfig s t) ∧
    (ended ∨ parseBlock Params.hw s.csr.hufMaxCodeLen.toNat (leadingBytes s.inq) ≠ .error .hufTruncated → badMaxLen →
      ∃ t, exec .hufDecblk s = .next t ∧ FaultsWith .badConfig s t) ∧
    (ended → badBlock ∨ badMaxLen → ∃ t, exec .hufEnc s = .next t ∧ FaultsWith .badConfig s t) ∧
    (ended → badMaxLen → ∃ t, exec .hufDec s = .next t ∧ FaultsWith .badConfig s t) ∧
    (ended → badWindow ∨ badMatch → ∃ t, exec .lzEnc s = .next t ∧ FaultsWith .badConfig s t) ∧
    (ended → badWindow → ∃ t, exec .lzDec s = .next t ∧ FaultsWith .badConfig s t) ∧
    (4 ≤ s.csr.flags.toNat → ∃ t, exec .arcBegin s = .next t ∧ FaultsWith .badConfig s t) ∧
    (ended → writing → badBlock ∨ badMaxLen ∨ (lz ∧ (badWindow ∨ badMatch)) →
      ∃ t, exec .arcPutfile s = .next t ∧ FaultsWith .badConfig s t) ∧
    (reading → badMaxLen ∨ (lz ∧ badWindow) → ∃ t, exec .arcGetfile s = .next t ∧ FaultsWith .badConfig s t) ∧
    (ended → ¬ writing →
      ∀ i ∈ [Instr.arcPutfile, .arcPuttree], ∃ t, exec i s = .next t ∧ FaultsWith .arcSequence s t) ∧
    (¬ reading → ∀ i ∈ [Instr.arcGettree, .arcGetfile], ∃ t, exec i s = .next t ∧ FaultsWith .arcSequence s t)

/-! ### What no command changes -/

/-- No HUF, LZ, LZREC, CIPH or ARC command reads or writes the bit buffer (R153): with another bit buffer it
answers the same state with that other bit buffer. -/
def Obligations.CodecsDoNotUseTheBitBuffer : Prop :=
  ∀ (i : Instr) (s t : State) (bb : BitBuffer),
    i.family ∈ [Family.huffman, .lz77, .record, .cipher, .archive] → exec i s = .next t →
    t.bb = s.bb ∧ exec i { s with bb := bb } = .next { t with bb := bb }

/-- ARCH_MEM is written by ARC_BEGIN, ARC_PUTFILE, ARC_PUTTREE and ARC_LOAD alone, and by these only in the ranges
R61 gives, whether or not they fault (R61, R393). -/
def Obligations.ArchMemWriters : Prop :=
  ∀ (i : Instr) (s t : State), exec i s = .next t →
    (i.writesArch = false → t.arch = s.arch) ∧
    ∀ a, (∀ r ∈ s.writeRanges Params.hw i, a < r.1 ∨ r.1 + r.2 ≤ a) → Mem.read t.arch a = Mem.read s.arch a

/-- No command's effect depends on a byte of ARCH_MEM at or above ARCH_LEN (R61): two states that differ only there
go, under any command, to states that differ at most at or above the new ARCH_LEN. That stale bytes never come to be
read is the spec's inference in R431, marked as derived. -/
def Obligations.BytesBeyondArchLenAreNeverRead : Prop :=
  ∀ (i : Instr) (s t : State) (m : Mem),
    (∀ a, a < s.csr.archLen.toNat → Mem.read m a = Mem.read s.arch a) → exec i s = .next t →
    ∃ m', exec i { s with arch := m } = .next { t with arch := m' } ∧
      ∀ a, a < t.csr.archLen.toNat → Mem.read m' a = Mem.read t.arch a

/-- Which commands write the registers and tables a host relies on: the operand and configuration registers CSR_WR
and RESET alone (R22, R25 to R31); the quota, which a command other than CSR_WR of one of its two words never raises,
and of these only ARC_GETFILE and RESET change (R32, R329); SYMTAB the block coders, the file commands and RESET alone
(R42). -/
def Obligations.RegisterWriters : Prop :=
  ∀ (i : Instr) (s t : State), exec i s = .next t →
    (i.writesSymtab = false → t.symtab = s.symtab) ∧
    (∀ c ∈ [Csr.arg0, .arg1, .arg2, .arg3, .hufBlockSize, .hufMaxCodeLen, .lzWindow, .lzMaxMatch, .flags, .seedLo,
      .seedHi], i ≠ .reset → (∀ v, i ≠ .csrWr c.number v) → t.readCsr c = s.readCsr c) ∧
    ((∀ v, i ≠ .csrWr 0x1C v ∧ i ≠ .csrWr 0x1D v) →
      pairNat t.csr.quotaLo t.csr.quotaHi ≤ pairNat s.csr.quotaLo s.csr.quotaHi ∧
        (i ≠ .arcGetfile → i ≠ .reset → t.csr.quotaLo = s.csr.quotaLo ∧ t.csr.quotaHi = s.csr.quotaHi))

/-- Bytes are only appended to OUT; tokens are only taken from the head of IN, by any command but RESET no further
than the first EOS (R38, R39, R71, R78). -/
def Obligations.StreamsMoveOneWay : Prop :=
  ∀ (i : Instr) (s t : State), exec i s = .next t →
    (∃ bs, t.outq = s.outq ++ bs) ∧
    ∃ k, t.inq = s.inq.drop k ∧ (i ≠ .reset → k ≤ streamTokens s.inq)

/-- A command that is not held leaves the port and is counted once, whether it completes or faults; a held one has
no step (R45, R77). No command touches the host's actions. -/
def Obligations.CommandsAreCountedOnce : Prop :=
  ∀ (i : Instr) (s t : State), exec i s = .next t →
    t.hostq = s.hostq ∧
    (held Params.hw i s = true → t = s) ∧
    (held Params.hw i s = false → t.port = none ∧ t.retired = s.retired + 1)

/-! ### Control commands -/

/-- NOP completes and changes nothing (R380). RESET completes whatever STATUS.FAULT is: every CSR is 0, the bit
buffer, SYMTAB and IN are empty, OUT and ARCH_MEM are unchanged; no other command clears a fault (R381). -/
def Obligations.NopAndResetResults : Prop :=
  (∀ s : State, exec .nop s = .next { s with port := none, retired := s.retired + 1 }) ∧
  (∀ s : State, ∃ t, exec .reset s = .next t ∧ (∀ c : Csr, t.readCsr c = 0) ∧
    t = { s with
      csr := t.csr
      bb := { q := [], r := 0, pv := 0, pc := 0 }
      symtab := []
      inq := []
      port := none
      retired := s.retired + 1 }) ∧
  ∀ (i : Instr) (s t : State), i ≠ .reset → s.faulted = true → exec i s = .next t → t.faulted = true

/-- The numbers of the 24 registers, and which of them CSR_WR may write (R22). -/
def Obligations.CsrMap : Prop :=
  (∀ c c' : Csr, c.number = c'.number → c = c') ∧
    [Csr.status, .res0, .res1, .res2, .res3].map Csr.number = [0x00, 0x01, 0x02, 0x03, 0x04] ∧
    [Csr.arg0, .arg1, .arg2, .arg3].map Csr.number = [0x08, 0x09, 0x0A, 0x0B] ∧
    [Csr.hufBlockSize, .hufMaxCodeLen, .lzWindow, .lzMaxMatch].map Csr.number = [0x10, 0x11, 0x12, 0x13] ∧
    [Csr.flags, .seedLo, .seedHi, .quotaLo, .quotaHi].map Csr.number = [0x18, 0x19, 0x1A, 0x1C, 0x1D] ∧
    [Csr.archLen, .arcFlags, .treePtr].map Csr.number = [0x20, 0x21, 0x22] ∧
    [Csr.bbBits, .bbPend, .hufNsym].map Csr.number = [0x28, 0x29, 0x30] ∧
    ∀ c : Csr, c.writable = true ↔
      c ∈ [Csr.arg0, .arg1, .arg2, .arg3, .hufBlockSize, .hufMaxCodeLen, .lzWindow, .lzMaxMatch, .flags, .seedLo,
        .seedHi, .quotaLo, .quotaHi]

/-- CSR_WR of a writable register writes any value to that register and to no other; of any other number it faults
BAD_OPERAND (R21, R382). -/
def Obligations.CsrWriteResult : Prop :=
  ∀ (s : State) (v : Word), s.faulted = false →
    (∀ c : Csr, c.writable = true → ∃ t, exec (.csrWr c.number v) s = .next t ∧
      t.readCsr c = v ∧ (∀ c' : Csr, c' ≠ c → t.readCsr c' = s.readCsr c') ∧
      t = { s with csr := t.csr, port := none, retired := s.retired + 1 }) ∧
    (∀ n : Byte, (∀ c : Csr, c.writable = true → c.number ≠ n) →
      ∃ t, exec (.csrWr n v) s = .next t ∧ FaultsWith .badOperand s t)

/-- CSR_RD copies the register, a view of the bit buffer or of SYMTAB included, to RES0 and changes nothing else; of
an unassigned number it faults BAD_OPERAND, and a host read of one answers 0 (R21, R36, R37, R383). -/
def Obligations.CsrReadResult : Prop :=
  ∀ s : State,
    (∀ c : Csr, s.hostRead c.number = s.readCsr c ∧ exec (.csrRd c.number) s = .next { s with
      csr := { s.csr with res0 := s.readCsr c }
      port := none
      retired := s.retired + 1 }) ∧
    (∀ n : Byte, (∀ c : Csr, c.number ≠ n) → s.hostRead n = 0 ∧
      (s.faulted = false → ∃ t, exec (.csrRd n) s = .next t ∧ FaultsWith .badOperand s t)) ∧
    s.readCsr .bbBits = BitVec.ofNat 32 (8 * s.bb.q.length - s.bb.r.val) ∧
    s.readCsr .bbPend = BitVec.ofNat 32 s.bb.pc.val ∧
    s.readCsr .hufNsym = BitVec.ofNat 32 s.symtab.length

/-! ### Bit-buffer commands -/

/-- BB_PUTBYTE appends its byte; with bits pending it faults BB_MIXED, into a full FIFO BB_FULL (R141, R145, R146). -/
def Obligations.PutByteResult : Prop :=
  ∀ (v : Byte) (s : State), s.faulted = false →
    (s.bb.pc = 0 → s.bb.q.length ≠ Params.hw.bbCapacity →
      exec (.bbPutbyte v) s = .next { s with
        bb := { s.bb with q := s.bb.q ++ [v] }
        port := none
        retired := s.retired + 1 }) ∧
    (s.bb.pc ≠ 0 → ∃ t, exec (.bbPutbyte v) s = .next t ∧ FaultsWith .bbMixed s t) ∧
    (s.bb.pc = 0 → s.bb.q.length = Params.hw.bbCapacity →
      ∃ t, exec (.bbPutbyte v) s = .next t ∧ FaultsWith .bbFull s t)

/-- BB_PUTBIT puts its bit at bit `pc` of the pending group; the eighth bit completes a byte, which a full FIFO
refuses; an operand above 1 faults first (R142, R145, R147). -/
def Obligations.PutBitResult : Prop :=
  ∀ (a : Byte) (s : State), s.faulted = false →
    (a.toNat ≤ 1 → s.bb.pc.val < 7 →
      exec (.bbPutbit a) s = .next { s with
        bb := { s.bb with pv := s.bb.pv ||| BitVec.ofNat 8 (a.toNat * 2 ^ s.bb.pc.val), pc := s.bb.pc + 1 }
        port := none
        retired := s.retired + 1 }) ∧
    (a.toNat ≤ 1 → s.bb.pc.val = 7 → s.bb.q.length ≠ Params.hw.bbCapacity →
      exec (.bbPutbit a) s = .next { s with
        bb := { s.bb with q := s.bb.q ++ [s.bb.pv ||| BitVec.ofNat 8 (a.toNat * 2 ^ 7)], pv := 0, pc := 0 }
        port := none
        retired := s.retired + 1 }) ∧
    (1 < a.toNat → ∃ t, exec (.bbPutbit a) s = .next t ∧ FaultsWith .badOperand s t) ∧
    (a.toNat ≤ 1 → s.bb.pc.val = 7 → s.bb.q.length = Params.hw.bbCapacity →
      ∃ t, exec (.bbPutbit a) s = .next t ∧ FaultsWith .bbFull s t)

/-- BB_FLUSH appends the pending group, if there is one, as a byte and returns in RES0 how many bits it had
(R144, R145, R148). -/
def Obligations.FlushResult : Prop :=
  ∀ s : State, s.faulted = false →
    (s.bb.pc = 0 → exec .bbFlush s = .next { s with
      csr := { s.csr with res0 := 0 }
      port := none
      retired := s.retired + 1 }) ∧
    (s.bb.pc ≠ 0 → s.bb.q.length ≠ Params.hw.bbCapacity → exec .bbFlush s = .next { s with
      bb := { s.bb with q := s.bb.q ++ [s.bb.pv], pv := 0, pc := 0 }
      csr := { s.csr with res0 := BitVec.ofNat 32 s.bb.pc.val }
      port := none
      retired := s.retired + 1 }) ∧
    (s.bb.pc ≠ 0 → s.bb.q.length = Params.hw.bbCapacity →
      ∃ t, exec .bbFlush s = .next t ∧ FaultsWith .bbFull s t)

/-- BB_GETBIT pops bit `r` of the head byte and BB_GETBYTE a whole head byte; an empty FIFO faults BB_EMPTY, even
with bits pending, and a partly read head byte is not read whole (R143, R145, R149, R150). -/
def Obligations.PopResults : Prop :=
  ∀ s : State, s.faulted = false →
    (s.bb.q = [] → ∀ i ∈ [Instr.bbGetbit, .bbGetbyte], ∃ t, exec i s = .next t ∧ FaultsWith .bbEmpty s t) ∧
    ∀ (b : Byte) (rest : List Byte), s.bb.q = b :: rest →
      (s.bb.r.val < 7 → exec .bbGetbit s = .next { s with
        bb := { s.bb with r := s.bb.r + 1 }
        csr := { s.csr with res0 := BitVec.ofNat 32 (b.toNat / 2 ^ s.bb.r.val % 2) }
        port := none
        retired := s.retired + 1 }) ∧
      (s.bb.r.val = 7 → exec .bbGetbit s = .next { s with
        bb := { s.bb with q := rest, r := 0 }
        csr := { s.csr with res0 := BitVec.ofNat 32 (b.toNat / 2 ^ 7) }
        port := none
        retired := s.retired + 1 }) ∧
      (s.bb.r = 0 → exec .bbGetbyte s = .next { s with
        bb := { s.bb with q := rest }
        csr := { s.csr with res0 := BitVec.ofNat 32 b.toNat }
        port := none
        retired := s.retired + 1 }) ∧
      (s.bb.r ≠ 0 → ∃ t, exec .bbGetbyte s = .next t ∧ FaultsWith .bbMixed s t)

/-- BB_AVAIL tells in RES0 whether more than t bits are readable; BB_CLEAR empties the buffer (R151, R152). -/
def Obligations.AvailAndClearResults : Prop :=
  ∀ s : State, s.faulted = false →
    (∀ t : Word, exec (.bbAvail t) s = .next { s with
      csr := { s.csr with res0 := if 8 * s.bb.q.length - s.bb.r.val > t.toNat then 1 else 0 }
      port := none
      retired := s.retired + 1 }) ∧
    exec .bbClear s = .next { s with
      bb := { q := [], r := 0, pv := 0, pc := 0 }
      port := none
      retired := s.retired + 1 }

/-- The bit buffer is a queue of bits: appends go behind the readable and the pending bits, pops come from the head
of the readable ones, a flush adds zero filler (R142, R143, R144, R149). -/
def Obligations.BitBufferIsAQueue : Prop :=
  ∀ s t : State, s.faulted = false → t.faulted = false → BitBuffer.Sound Params.hw s.bb →
    (∀ v, exec (.bbPutbyte v) s = .next t →
      t.bb.readable = s.bb.readable ++ byteBits v ∧ t.bb.pending = [] ∧ s.bb.pending = []) ∧
    (∀ a, exec (.bbPutbit a) s = .next t →
      t.bb.readable ++ t.bb.pending = s.bb.readable ++ s.bb.pending ++ [a == 1]) ∧
    (exec .bbFlush s = .next t →
      t.bb.readable = s.bb.readable ++ s.bb.pending ++ List.replicate (filler s.bb.pending.length) false ∧
        t.bb.pending = []) ∧
    (exec .bbGetbit s = .next t →
      s.bb.readable = t.csr.res0.getLsbD 0 :: t.bb.readable ∧ t.bb.pending = s.bb.pending) ∧
    (exec .bbGetbyte s = .next t →
      s.bb.readable = byteBits (t.csr.res0.setWidth 8) ++ t.bb.readable ∧ t.bb.pending = s.bb.pending)

/-! ### Huffman commands -/

/-- HUF_ENCBLK: on an exhausted stream it takes the EOS and says so in RES2; otherwise it takes the next block, emits
its bytes and leaves its table in SYMTAB, or faults HUF_CODE_TOO_LONG (R176, R180). -/
def Obligations.EncodeBlockResult : Prop :=
  ∀ s : State, s.faulted = false →
    1 ≤ s.csr.hufBlockSize.toNat → s.csr.hufBlockSize.toNat ≤ 2 ^ 27 →
    1 ≤ s.csr.hufMaxCodeLen.toNat → s.csr.hufMaxCodeLen.toNat ≤ 255 →
    (∀ rest, s.inq = .eos :: rest → exec .hufEncblk s = .next { s with
      inq := rest
      csr := { s.csr with res0 := 0, res1 := 0, res2 := 1 }
      port := none
      retired := s.retired + 1 }) ∧
    ∀ (block : List Byte) (rest : List Token), block ≠ [] → s.inq = block.map Token.byte ++ rest →
      (block.length = s.csr.hufBlockSize.toNat ∨
        (block.length < s.csr.hufBlockSize.toNat ∧ ∃ more, rest = .eos :: more)) →
      let table := huffBuild .firstOccurrence block
      ((∀ e ∈ table, e.2.length ≤ s.csr.hufMaxCodeLen.toNat) → exec .hufEncblk s = .next { s with
        inq := rest
        outq := s.outq ++ serBlock Params.hw block
        symtab := table
        csr := { s.csr with
          res0 := BitVec.ofNat 32 block.length
          res1 := BitVec.ofNat 32 (serBlock Params.hw block).length
          res2 := 0 }
        port := none
        retired := s.retired + 1 }) ∧
      ((∃ e ∈ table, s.csr.hufMaxCodeLen.toNat < e.2.length) →
        ∃ t, exec .hufEncblk s = .next t ∧ FaultsOpen Params.hw .hufEncblk .hufCodeTooLong s t)

/-- HUF_DECBLK: on an exhausted stream it takes the EOS and says so in RES2; otherwise it takes one block's bytes,
emits its symbols and leaves its table in SYMTAB, or faults as `parseBlock` does (R181); that a fault other than
HUF_TRUNCATED does not wait for an EOS is the model's reading (log entry 4, DEDUCED, unsafe). -/
def Obligations.DecodeBlockResult : Prop :=
  ∀ s : State, s.faulted = false → 1 ≤ s.csr.hufMaxCodeLen.toNat → s.csr.hufMaxCodeLen.toNat ≤ 255 →
    (∀ rest, s.inq = .eos :: rest → exec .hufDecblk s = .next { s with
      inq := rest
      csr := { s.csr with res0 := 0, res1 := 0, res2 := 1 }
      port := none
      retired := s.retired + 1 }) ∧
    (s.inq.head? ≠ some .eos → ∀ table ys n,
      parseBlock Params.hw s.csr.hufMaxCodeLen.toNat (leadingBytes s.inq) = .ok (table, ys, n) →
      exec .hufDecblk s = .next { s with
        inq := s.inq.drop n
        outq := s.outq ++ ys
        symtab := table
        csr := { s.csr with res0 := BitVec.ofNat 32 n, res1 := BitVec.ofNat 32 ys.length, res2 := 0 }
        port := none
        retired := s.retired + 1 }) ∧
    (s.inq.head? ≠ some .eos → ∀ c, Token.eos ∈ s.inq ∨ c ≠ .hufTruncated →
      parseBlock Params.hw s.csr.hufMaxCodeLen.toNat (leadingBytes s.inq) = .error c →
      ∃ t, exec .hufDecblk s = .next t ∧ FaultsOpen Params.hw .hufDecblk c s t)

/-- HUF_ENC takes a stream, emits the bytes of its blocks and leaves the last block's table in SYMTAB (an empty
stream leaves SYMTAB as it is), or faults HUF_CODE_TOO_LONG (R182). -/
def Obligations.EncodeStreamResult : Prop :=
  ∀ (s : State) (stream : List Byte) (rest : List Token), s.faulted = false →
    1 ≤ s.csr.hufBlockSize.toNat → s.csr.hufBlockSize.toNat ≤ 2 ^ 27 →
    1 ≤ s.csr.hufMaxCodeLen.toNat → s.csr.hufMaxCodeLen.toNat ≤ 255 →
    s.inq = stream.map Token.byte ++ .eos :: rest →
    let parts := blocks s.csr.hufBlockSize.toNat stream
    ((∀ x ∈ parts, ∀ e ∈ huffBuild .firstOccurrence x, e.2.length ≤ s.csr.hufMaxCodeLen.toNat) →
      exec .hufEnc s = .next { s with
        inq := rest
        outq := s.outq ++ parts.flatMap (serBlock Params.hw)
        symtab := (parts.getLast?).elim s.symtab (huffBuild .firstOccurrence)
        csr := { s.csr with
          res0 := BitVec.ofNat 32 stream.length
          res1 := BitVec.ofNat 32 (parts.flatMap (serBlock Params.hw)).length
          res2 := BitVec.ofNat 32 parts.length }
        port := none
        retired := s.retired + 1 }) ∧
    ((∃ x ∈ parts, ∃ e ∈ huffBuild .firstOccurrence x, s.csr.hufMaxCodeLen.toNat < e.2.length) →
      ∃ t, exec .hufEnc s = .next t ∧ FaultsOpen Params.hw .hufEnc .hufCodeTooLong s t)

/-- HUF_DEC takes a stream, emits the symbols of its blocks and leaves the last block's table in SYMTAB, or faults
as its first bad block does (R183). -/
def Obligations.DecodeStreamResult : Prop :=
  ∀ (s : State) (bs : List Byte) (rest : List Token), s.faulted = false →
    1 ≤ s.csr.hufMaxCodeLen.toNat → s.csr.hufMaxCodeLen.toNat ≤ 255 →
    s.inq = bs.map Token.byte ++ .eos :: rest →
    (∀ ys tables, hufDecodeStream Params.hw s.csr.hufMaxCodeLen.toNat bs = .ok (ys, tables) →
      exec .hufDec s = .next { s with
        inq := rest
        outq := s.outq ++ ys
        symtab := (tables.getLast?).elim s.symtab id
        csr := { s.csr with
          res0 := BitVec.ofNat 32 bs.length
          res1 := BitVec.ofNat 32 ys.length
          res2 := BitVec.ofNat 32 tables.length }
        port := none
        retired := s.retired + 1 }) ∧
    (∀ c, hufDecodeStream Params.hw s.csr.hufMaxCodeLen.toNat bs = .error c →
      ∃ t, exec .hufDec s = .next t ∧ FaultsOpen Params.hw .hufDec c s t)

/-- HUF_TBLRD gives a symbol's code length and 32 bits of its code, both 0 for an absent symbol; a word index above 7
faults BAD_OPERAND (R185). -/
def Obligations.TableReadResult : Prop :=
  ∀ (sym : Byte) (w : Word) (s : State), s.faulted = false →
    (w.toNat ≤ 7 → ∀ code, Symtab.lookup s.symtab sym = some code →
      ∃ t, exec (.hufTblrd sym w) s = .next t ∧
        (∀ j, j < 32 → t.csr.res1.getLsbD j = code.getD (32 * w.toNat + j) false) ∧
        t = { s with
          csr := { s.csr with res0 := BitVec.ofNat 32 code.length, res1 := t.csr.res1 }
          port := none
          retired := s.retired + 1 }) ∧
    (w.toNat ≤ 7 → Symtab.lookup s.symtab sym = none →
      exec (.hufTblrd sym w) s = .next { s with
        csr := { s.csr with res0 := 0, res1 := 0 }
        port := none
        retired := s.retired + 1 }) ∧
    (7 < w.toNat → ∃ t, exec (.hufTblrd sym w) s = .next t ∧ FaultsWith .badOperand s t)

/-! ### LZ77, record and cipher commands -/

/-- LZ_ENC takes a stream and emits its records, two bytes each; LZ_DEC takes record bytes and emits what they
replay, or faults as the first bad record does (R230, R231). -/
def Obligations.LzStreamResults : Prop :=
  ∀ (s : State) (stream : List Byte) (rest : List Token), s.faulted = false →
    1 ≤ s.csr.lzWindow.toNat → s.csr.lzWindow.toNat ≤ 255 →
    s.inq = stream.map Token.byte ++ .eos :: rest →
    (1 ≤ s.csr.lzMaxMatch.toNat → s.csr.lzMaxMatch.toNat ≤ 255 →
      let recs := lzEncode false stream s.csr.lzWindow.toNat s.csr.lzMaxMatch.toNat
      exec .lzEnc s = .next { s with
        inq := rest
        outq := s.outq ++ lzSerialize recs
        csr := { s.csr with
          res0 := BitVec.ofNat 32 stream.length
          res1 := BitVec.ofNat 32 (2 * recs.length)
          res2 := BitVec.ofNat 32 recs.length }
        port := none
        retired := s.retired + 1 }) ∧
    (∀ out, lzDecodeBytes s.csr.lzWindow.toNat stream = .ok out → exec .lzDec s = .next { s with
      inq := rest
      outq := s.outq ++ out
      csr := { s.csr with
        res0 := BitVec.ofNat 32 stream.length
        res1 := BitVec.ofNat 32 out.length
        res2 := BitVec.ofNat 32 (stream.length / 2) }
      port := none
      retired := s.retired + 1 }) ∧
    (∀ c, lzDecodeBytes s.csr.lzWindow.toNat stream = .error c →
      ∃ t, exec .lzDec s = .next t ∧ FaultsOpen Params.hw .lzDec c s t)

/-- LZREC_PUT emits a record's two bytes, a Copy of length 0 faults BAD_OPERAND; LZREC_GET takes two bytes and gives
the record, or the EOS of an exhausted stream, or faults (R262, R280, R281). -/
def Obligations.RecordResults : Prop :=
  ∀ s : State, s.faulted = false →
    (∀ (d : Byte) (v : Word), v.toNat < 256 → (d ≠ 0 → v ≠ 0) →
      exec (.lzrecPut d v) s = .next { s with
        outq := s.outq ++ [d, BitVec.ofNat 8 v.toNat]
        port := none
        retired := s.retired + 1 }) ∧
    (∀ d : Byte, d ≠ 0 → ∃ t, exec (.lzrecPut d 0) s = .next t ∧ FaultsWith .badOperand s t) ∧
    (∀ rest, s.inq = .eos :: rest → exec .lzrecGet s = .next { s with
      inq := rest
      csr := { s.csr with res0 := 0, res1 := 0, res2 := 1 }
      port := none
      retired := s.retired + 1 }) ∧
    (∀ b0 b1 rest, s.inq = .byte b0 :: .byte b1 :: rest → (b0 ≠ 0 → b1 ≠ 0) →
      exec .lzrecGet s = .next { s with
        inq := rest
        csr := { s.csr with res0 := BitVec.ofNat 32 b0.toNat, res1 := BitVec.ofNat 32 b1.toNat, res2 := 0 }
        port := none
        retired := s.retired + 1 }) ∧
    (∀ b0 rest, s.inq = .byte b0 :: .byte 0 :: rest → b0 ≠ 0 →
      ∃ t, exec .lzrecGet s = .next t ∧ FaultsOpen Params.hw .lzrecGet .lzBadCopy s t) ∧
    (∀ b0 rest, s.inq = .byte b0 :: .eos :: rest →
      ∃ t, exec .lzrecGet s = .next t ∧ FaultsOpen Params.hw .lzrecGet .lzTruncated s t)

/-- CIPH_ENC adds and CIPH_DEC subtracts KS(seed, i) modulo 256 at byte i of the stream, with
seed = SEED_HI * 2^32 + SEED_LO; RES0 counts the bytes (R31, R300 to R304). -/
def Obligations.CipherResults : Prop :=
  ∀ (s : State) (stream : List Byte) (rest : List Token) (seed : BitVec 64), s.faulted = false →
    s.inq = stream.map Token.byte ++ .eos :: rest →
    seed = BitVec.ofNat 64 (s.csr.seedHi.toNat * 2 ^ 32 + s.csr.seedLo.toNat) →
    exec .ciphEnc s = .next { s with
      inq := rest
      outq := s.outq ++ stream.mapIdx fun i b => BitVec.ofNat 8 (b.toNat + (Config.ks seed i).toNat)
      csr := { s.csr with res0 := BitVec.ofNat 32 stream.length }
      port := none
      retired := s.retired + 1 } ∧
    exec .ciphDec s = .next { s with
      inq := rest
      outq := s.outq ++ stream.mapIdx fun i b => BitVec.ofNat 8 (b.toNat + 256 - (Config.ks seed i).toNat)
      csr := { s.csr with res0 := BitVec.ofNat 32 stream.length }
      port := none
      retired := s.retired + 1 }

/-! ### Archive commands -/

/-- ARC_BEGIN writes the flags byte and the placeholder pointer at 0 .. 4, latches the flags and opens the build;
every other byte of ARCH_MEM and everything else is unchanged (R340). -/
def Obligations.ArcBeginResult : Prop :=
  ∀ s : State, s.faulted = false → s.csr.flags.toNat < 4 →
    ∃ t, exec .arcBegin s = .next t ∧
      Mem.read t.arch 0 = some (BitVec.ofNat 8 s.csr.flags.toNat) ∧
      (∀ a, 1 ≤ a → a < 5 → Mem.read t.arch a = some 0) ∧
      (∀ a, 5 ≤ a → Mem.read t.arch a = Mem.read s.arch a) ∧
      (∀ j, t.csr.status.getLsbD j = if j = 2 then true else if j = 3 then false else s.csr.status.getLsbD j) ∧
      t = { s with
        arch := t.arch
        csr := { s.csr with archLen := 5, arcFlags := s.csr.flags, treePtr := 0, status := t.csr.status }
        port := none
        retired := s.retired + 1 }

/-- ARC_PUTFILE writes the file's region at ARCH_LEN and advances it, reports offset, length and size in RES0 to
RES3, and leaves the last block's table in SYMTAB; a region that does not fit faults ARC_FULL, a code that is too
long HUF_CODE_TOO_LONG (R320, R325, R332, R341). -/
def Obligations.ArcPutfileResult : Prop :=
  ∀ (s : State) (file : List Byte) (rest : List Token), s.faulted = false →
    statusArcW s.csr.status = true → s.inq = file.map Token.byte ++ .eos :: rest →
    1 ≤ s.csr.hufBlockSize.toNat → s.csr.hufBlockSize.toNat ≤ 2 ^ 27 →
    1 ≤ s.csr.hufMaxCodeLen.toNat → s.csr.hufMaxCodeLen.toNat ≤ 255 →
    (s.csr.arcFlags.getLsbD 1 = true → 1 ≤ s.csr.lzWindow.toNat ∧ s.csr.lzWindow.toNat ≤ 255 ∧
      1 ≤ s.csr.lzMaxMatch.toNat ∧ s.csr.lzMaxMatch.toNat ≤ 255) →
    (∀ region, packFile Params.hw s.pipe file = .ok region →
      (s.csr.archLen.toNat + region.length ≤ Params.hw.archSize → ∃ t, exec .arcPutfile s = .next t ∧
        Mem.readBytes t.arch s.csr.archLen.toNat region.length = some region ∧
        (∀ a, a < s.csr.archLen.toNat ∨ s.csr.archLen.toNat + region.length ≤ a →
          Mem.read t.arch a = Mem.read s.arch a) ∧
        t = { s with
          inq := rest
          arch := t.arch
          symtab := ((blocks s.csr.hufBlockSize.toNat (packStages Params.hw s.pipe file)).getLast?).elim s.symtab
            (huffBuild .firstOccurrence)
          csr := { s.csr with
            archLen := BitVec.ofNat 32 (s.csr.archLen.toNat + region.length)
            res0 := s.csr.archLen
            res1 := BitVec.ofNat 32 region.length
            res2 := BitVec.ofNat 32 file.length
            res3 := BitVec.ofNat 32 (file.length / 2 ^ 32) }
          port := none
          retired := s.retired + 1 }) ∧
      (Params.hw.archSize < s.csr.archLen.toNat + region.length →
        ∃ t, exec .arcPutfile s = .next t ∧ FaultsOpen Params.hw .arcPutfile .arcFull s t)) ∧
    (∀ c, packFile Params.hw s.pipe file = .error c →
      c = .hufCodeTooLong ∧ ∃ t, exec .arcPutfile s = .next t ∧ FaultsOpen Params.hw .arcPutfile c s t)

/-- ARC_PUTTREE writes the length-prefixed tree region at ARCH_LEN and its offset over the placeholder, and closes
the build; a tree that does not fit faults ARC_FULL (R332, R342). -/
def Obligations.ArcPuttreeResult : Prop :=
  ∀ (s : State) (body : List Byte) (rest : List Token), s.faulted = false →
    statusArcW s.csr.status = true → s.inq = body.map Token.byte ++ .eos :: rest →
    (5 ≤ s.csr.archLen.toNat → s.csr.archLen.toNat + 4 + body.length ≤ Params.hw.archSize →
      ∃ t, exec .arcPuttree s = .next t ∧
        Mem.readBytes t.arch s.csr.archLen.toNat (4 + body.length) = some (be32 body.length ++ body) ∧
        Mem.readBytes t.arch 1 4 = some (be32 s.csr.archLen.toNat) ∧
        (∀ a, (a < 1 ∨ 5 ≤ a) → (a < s.csr.archLen.toNat ∨ s.csr.archLen.toNat + 4 + body.length ≤ a) →
          Mem.read t.arch a = Mem.read s.arch a) ∧
        (∀ j, t.csr.status.getLsbD j = if j = 2 then false else s.csr.status.getLsbD j) ∧
        t = { s with
          inq := rest
          arch := t.arch
          csr := { s.csr with
            archLen := BitVec.ofNat 32 (s.csr.archLen.toNat + 4 + body.length)
            treePtr := s.csr.archLen
            status := t.csr.status
            res0 := s.csr.archLen
            res1 := BitVec.ofNat 32 (s.csr.archLen.toNat + 4 + body.length) }
          port := none
          retired := s.retired + 1 }) ∧
    (Params.hw.archSize < s.csr.archLen.toNat + 4 + body.length →
      ∃ t, exec .arcPuttree s = .next t ∧ FaultsOpen Params.hw .arcPuttree .arcFull s t)

/-- ARC_LOAD copies a stream to ARCH_MEM from address 0 and forgets any archive that was being built or read; one
that does not fit faults ARC_FULL (R332, R343). -/
def Obligations.ArcLoadResult : Prop :=
  ∀ (s : State) (bs : List Byte) (rest : List Token), s.faulted = false →
    s.inq = bs.map Token.byte ++ .eos :: rest →
    (bs.length ≤ Params.hw.archSize → ∃ t, exec .arcLoad s = .next t ∧
      Mem.readBytes t.arch 0 bs.length = some bs ∧
      (∀ a, bs.length ≤ a → Mem.read t.arch a = Mem.read s.arch a) ∧
      (∀ j, t.csr.status.getLsbD j = if j = 2 ∨ j = 3 then false else s.csr.status.getLsbD j) ∧
      t = { s with
        inq := rest
        arch := t.arch
        csr := { s.csr with
          archLen := BitVec.ofNat 32 bs.length
          arcFlags := 0
          treePtr := 0
          status := t.csr.status
          res0 := BitVec.ofNat 32 bs.length }
        port := none
        retired := s.retired + 1 }) ∧
    (Params.hw.archSize < bs.length →
      ∃ t, exec .arcLoad s = .next t ∧ FaultsOpen Params.hw .arcLoad .arcFull s t)

/-- ARC_OPEN checks the header and the tree framing, in natural arithmetic, and opens the archive or faults
ARC_BAD_HEADER with no other effect (R344). -/
def Obligations.ArcOpenResult : Prop :=
  ∀ s : State, s.faulted = false →
    (s.csr.archLen.toNat < 9 → ∃ t, exec .arcOpen s = .next t ∧ FaultsWith .arcBadHeader s t) ∧
    ∀ (fl : Byte) (pointer : List Byte), 9 ≤ s.csr.archLen.toNat → Mem.read s.arch 0 = some fl →
      Mem.readBytes s.arch 1 4 = some pointer →
      (4 ≤ fl.toNat ∨ readBE32 pointer < 5 ∨ s.csr.archLen.toNat < readBE32 pointer + 4 →
        ∃ t, exec .arcOpen s = .next t ∧ FaultsWith .arcBadHeader s t) ∧
      ∀ field, fl.toNat < 4 → 5 ≤ readBE32 pointer → readBE32 pointer + 4 ≤ s.csr.archLen.toNat →
        Mem.readBytes s.arch (readBE32 pointer) 4 = some field →
        (readBE32 pointer + 4 + readBE32 field ≠ s.csr.archLen.toNat →
          ∃ t, exec .arcOpen s = .next t ∧ FaultsWith .arcBadHeader s t) ∧
        (readBE32 pointer + 4 + readBE32 field = s.csr.archLen.toNat →
          ∃ t, exec .arcOpen s = .next t ∧
            (∀ j, t.csr.status.getLsbD j =
              if j = 3 then true else if j = 2 ∨ j = 1 then false else s.csr.status.getLsbD j) ∧
            t = { s with
              csr := { s.csr with
                arcFlags := BitVec.ofNat 32 fl.toNat
                treePtr := BitVec.ofNat 32 (readBE32 pointer)
                status := t.csr.status
                res0 := BitVec.ofNat 32 (readBE32 pointer + 4)
                res1 := BitVec.ofNat 32 (readBE32 field) }
              port := none
              retired := s.retired + 1 })

/-- ARC_GETTREE appends the tree body to OUT, past the quota; ARC_DUMP appends the whole archive (R345, R347). -/
def Obligations.TreeAndDumpResults : Prop :=
  ∀ s : State, s.faulted = false →
    (∀ field body, statusArcR s.csr.status = true → Mem.readBytes s.arch s.csr.treePtr.toNat 4 = some field →
      s.csr.treePtr.toNat + 4 + readBE32 field ≤ s.csr.archLen.toNat →
      Mem.readBytes s.arch (s.csr.treePtr.toNat + 4) (readBE32 field) = some body →
      exec .arcGettree s = .next { s with
        outq := s.outq ++ body
        csr := { s.csr with res0 := BitVec.ofNat 32 (readBE32 field) }
        port := none
        retired := s.retired + 1 }) ∧
    (∀ bytes, Mem.readBytes s.arch 0 s.csr.archLen.toNat = some bytes → exec .arcDump s = .next { s with
      outq := s.outq ++ bytes
      csr := { s.csr with res0 := s.csr.archLen }
      port := none
      retired := s.retired + 1 })

/-- ARC_GETFILE decodes the bytes of its range and writes the first Q of them to OUT, lowering Q by as many and
setting QEXH exactly when a byte is suppressed; a range outside the regions, a region that does not decode and a
wrong size fault (R326, R327, R329, R330, R346). -/
def Obligations.ArcGetfileResult : Prop :=
  ∀ s : State, s.faulted = false → statusArcR s.csr.status = true →
    1 ≤ s.csr.hufMaxCodeLen.toNat → s.csr.hufMaxCodeLen.toNat ≤ 255 →
    (s.csr.arcFlags.getLsbD 1 = true → 1 ≤ s.csr.lzWindow.toNat ∧ s.csr.lzWindow.toNat ≤ 255) →
    ∀ off len size quota : Nat, off = s.csr.arg0.toNat → len = s.csr.arg1.toNat →
    size = s.csr.arg3.toNat * 2 ^ 32 + s.csr.arg2.toNat →
    quota = s.csr.quotaHi.toNat * 2 ^ 32 + s.csr.quotaLo.toNat →
    (off < 5 ∨ s.csr.treePtr.toNat < off + len →
      ∃ t, exec .arcGetfile s = .next t ∧ FaultsWith .arcBadRange s t) ∧
    ∀ region, 5 ≤ off → off + len ≤ s.csr.treePtr.toNat → off + len ≤ s.csr.archLen.toNat →
      Mem.readBytes s.arch off len = some region →
      (∀ c, unpackFile Params.hw s.pipe region = .error c →
        ∃ t, exec .arcGetfile s = .next t ∧ FaultsOpen Params.hw .arcGetfile c s t) ∧
      ∀ file tables, unpackFile Params.hw s.pipe region = .ok (file, tables) →
        (file.length ≠ size →
          ∃ t, exec .arcGetfile s = .next t ∧ FaultsOpen Params.hw .arcGetfile .arcSizeMismatch s t) ∧
        (file.length = size → ∃ t, exec .arcGetfile s = .next t ∧
          (∀ j, t.csr.status.getLsbD j =
            if j = 1 ∧ quota < file.length then true else s.csr.status.getLsbD j) ∧
          t = { s with
            outq := s.outq ++ file.take quota
            symtab := (tables.getLast?).elim s.symtab id
            csr := { s.csr with
              status := t.csr.status
              quotaLo := BitVec.ofNat 32 (quota - file.length)
              quotaHi := BitVec.ofNat 32 ((quota - file.length) / 2 ^ 32)
              res0 := BitVec.ofNat 32 file.length
              res1 := BitVec.ofNat 32 (file.length / 2 ^ 32)
              res2 := BitVec.ofNat 32 (min quota file.length)
              res3 := BitVec.ofNat 32 (min quota file.length / 2 ^ 32) }
            port := none
            retired := s.retired + 1 })

/-! ### The codecs -/

/-- Packing, unpacking and filler, bit by bit, and that packing loses no bit, which the spec infers from these (R140);
four-byte fields are big-endian and hold every number below 2^32 (R10, R63). -/
def Obligations.PackingLaws : Prop :=
  (∀ bits : Bits,
    (pack bits).length = (bits.length + 7) / 8 ∧
    (∀ j i, j < (pack bits).length → i < 8 → ((pack bits).getD j 0).getLsbD i = bits.getD (8 * j + i) false) ∧
    (unpack (pack bits)).take bits.length = bits ∧
    8 * (pack bits).length = bits.length + filler bits.length) ∧
  (∀ bs : List Byte,
    (unpack bs).length = 8 * bs.length ∧
    ∀ j i, j < bs.length → i < 8 → (unpack bs).getD (8 * j + i) false = (bs.getD j 0).getLsbD i) ∧
  (∀ n, filler n = (8 - n % 8) % 8) ∧
  (∀ b0 b1 b2 b3 : Byte,
    readBE32 [b0, b1, b2, b3] = b0.toNat * 2 ^ 24 + b1.toNat * 2 ^ 16 + b2.toNat * 2 ^ 8 + b3.toNat) ∧
  (∀ n, n < 2 ^ 32 → readBE32 (be32 n) = n) ∧
  ∀ bs : List Byte, bs.length = 4 → be32 (readBE32 bs) = bs

/-- The block partition: there are ceil(|S| / B) blocks, and block k is S[kB .. kB + B), cut off at the end of the
stream (R170). -/
def Obligations.BlockPartition : Prop :=
  ∀ (size : Nat) (stream : List Byte), 1 ≤ size →
    (blocks size stream).length = (stream.length + size - 1) / size ∧
    ∀ k, k < (blocks size stream).length →
      (blocks size stream)[k]? = some ((stream.drop (k * size)).take size)

/-- The prefix code of a block maps exactly its symbols; no code is a prefix of, or equal to, another symbol's code.
The spec infers this from the builder of R171 to R175: its sentence is R177, marked as derived. -/
def Obligations.HuffmanCodeIsPrefixFree : Prop :=
  ∀ (order : LeafOrder) (block : List Byte), block ≠ [] →
    (∀ s, (Symtab.lookup (huffBuild order block) s).isSome = true ↔ s ∈ block) ∧
    ∀ s s' c c', s ≠ s' → Symtab.lookup (huffBuild order block) s = some c →
      Symtab.lookup (huffBuild order block) s' = some c' → ¬ c <+: c'

/-- The builder: the leaves' order (R171), each round's two nodes, least by (weight, seq), the first to the left
(R172), and the codes as paths from the root (R173, R175). And the lengths of the codes: a single symbol has the code
0 (R174), with k symbols a code has 1 to k - 1 bits, and with a limit of 255 no code is too long. The bound k - 1 and
the consequence for 255 are inferences that the spec marks as derived, in R173 and R176. -/
def Obligations.HuffmanCodeLengths : Prop :=
  ∀ (order : LeafOrder) (block : List Byte),
    ((syms order block).Nodup ∧ (∀ s, s ∈ syms order block ↔ s ∈ block) ∧
      (syms .firstOccurrence block).Pairwise (fun s s' => block.idxOf s < block.idxOf s') ∧
      (syms .ascendingSymbol block).Pairwise (fun s s' => s < s')) ∧
    (2 ≤ (syms order block).length → ∃ tree,
      MergesTo (syms order block).length
        ((syms order block).mapIdx fun i s => ⟨block.count s, i, .leaf s⟩) tree ∧
      ∀ s c, Symtab.lookup (huffBuild order block) s = some c ↔ tree.leafAt c = some s) ∧
    (∀ s, syms order block = [s] → huffBuild order block = [(s, [false])]) ∧
    (2 ≤ (syms order block).length → ∀ e ∈ huffBuild order block,
      1 ≤ e.2.length ∧ e.2.length ≤ (syms order block).length - 1) ∧
    codeTooLong 255 (huffBuild order block) = false

/-- What a parsed table is. The section's bytes are records, each a symbol, a length L and ceil(L / 8) bytes, with no
symbol twice; the table maps each record's symbol to the first L bits of its bytes, and nothing else. It is in
canonical form, not empty, with codes of 1 to the maximum number of bits, of which none is a prefix of another's. And
every such section parses (R268, R269). -/
def Obligations.ParsedTablesAreWellFormed : Prop :=
  ∀ (maxLen : Nat) (bs : List Byte) (t : Symtab) (rest : List Byte), parseTable maxLen bs = .ok (t, rest) ↔
    t ≠ [] ∧ Symtab.sorted t = true ∧
    (∀ e ∈ t, 1 ≤ e.2.length ∧ e.2.length ≤ maxLen) ∧
    (∀ s s' c c', s ≠ s' → Symtab.lookup t s = some c → Symtab.lookup t s' = some c' → ¬ c <+: c') ∧
    4 + readBE32 (bs.take 4) + rest.length = bs.length ∧ rest = bs.drop (4 + readBE32 (bs.take 4)) ∧
    ∃ records : List (Byte × Byte × List Byte),
      (bs.drop 4).take (readBE32 (bs.take 4)) = records.flatMap (fun r => r.1 :: r.2.1 :: r.2.2) ∧
      (∀ r ∈ records, r.2.2.length = (r.2.1.toNat + 7) / 8) ∧
      (records.map fun r => r.1).Nodup ∧
      ∀ s c, Symtab.lookup t s = some c ↔ ∃ r ∈ records, r.1 = s ∧ c = (unpack r.2.2).take r.2.1.toNat

/-- The bytes of a block: the byte count of the table's records, the records in ascending symbol order, the data's
length field, the filler count, and the codes of the block's symbols in the block's order, packed (R101 to R104, R178,
R265 to R267). A block's bytes parse back to its table, its symbols and its length, whatever follows them; the bytes of
an encoded stream decode to the stream and its blocks' tables; a single symbol has a code of one bit. The spec infers
the round trips from R175, R265 to R274: its sentence is R275, marked as derived. -/
def Obligations.HuffmanRoundTrip : Prop :=
  (∀ (p : Params) (block : List Byte), block ≠ [] →
    let table := huffBuild p.leafOrder block
    let records := table.flatMap fun e => e.1 :: BitVec.ofNat 8 e.2.length :: pack e.2
    table.Pairwise (fun e e' => e.1 < e'.1) ∧
    records.length = (table.map fun e => 2 + (e.2.length + 7) / 8).sum ∧
    ∃ codes : List Bits, block.map (Symtab.lookup table) = codes.map some ∧
      let data := pack codes.flatten
      serBlock p block = be32 records.length ++ records ++
        be32 (if p.dataLenIncludesFiller then data.length + 1 else data.length) ++
        BitVec.ofNat 8 (filler codes.flatten.length) :: data) ∧
  ∀ (p : Params) (maxLen : Nat), 1 ≤ maxLen → maxLen ≤ 255 →
    (∀ block more : List Byte, block ≠ [] → block.length ≤ 2 ^ 27 →
      (∀ e ∈ huffBuild p.leafOrder block, e.2.length ≤ maxLen) →
      parseBlock p maxLen (serBlock p block ++ more) =
        .ok (huffBuild p.leafOrder block, block, (serBlock p block).length)) ∧
    (∀ (size : Nat) (stream bs : List Byte), 1 ≤ size → size ≤ 2 ^ 27 →
      hufEncodeStream p maxLen size stream = .ok bs →
      hufDecodeStream p maxLen bs = .ok (stream, (blocks size stream).map (huffBuild p.leafOrder))) ∧
    (∀ (block : List Byte) (s : Byte), syms p.leafOrder block = [s] →
      ∃ bit, huffBuild p.leafOrder block = [(s, [bit])])

/-- Once a block parses, or faults otherwise than by running out of bytes, more bytes change nothing: what HUF_DECBLK
starts on is decided. That this is what its wait means (R181) is the model's reading (log entry 4). -/
def Obligations.BlockParsingIsDecided : Prop :=
  ∀ (p : Params) (maxLen : Nat) (bs more : List Byte),
    parseBlock p maxLen bs ≠ .error .hufTruncated → parseBlock p maxLen (bs ++ more) = parseBlock p maxLen bs

/-- The best match: no distance in reach has a longer match, and no nearer distance an equal one; a match length is
the greatest number of equal bytes up to its limit (R221, R222, R223). -/
def Obligations.LongestNearestMatch : Prop :=
  ∀ (overlap : Bool) (stream : List Byte) (window maxMatch pos : Nat),
    let best := bestMatch overlap stream window maxMatch pos
    let cap := min maxMatch (min window (stream.length - pos))
    (∀ d, 1 ≤ d → d ≤ min pos window → matchLength overlap stream pos cap d ≤ best.1) ∧
    (0 < best.1 → 1 ≤ best.2 ∧ best.2 ≤ min pos window ∧
      matchLength overlap stream pos cap best.2 = best.1 ∧
      ∀ d, 1 ≤ d → d < best.2 → matchLength overlap stream pos cap d < best.1) ∧
    ∀ d, 1 ≤ d → d ≤ pos →
      let k := matchLength overlap stream pos cap d
      let lim := if overlap then cap else min cap d
      k ≤ lim ∧ (∀ i, i < k → stream[pos - d + i]? = stream[pos + i]?) ∧
        (k < lim → stream[pos - d + k]? ≠ stream[pos + k]?)

/-- Every Copy the encoder emits has a distance of 1 to W and a length of 2 to min(M, W): the spec's inference from
R221, R222 and R224, stated at the end of R225 and marked as derived. -/
def Obligations.EncodedCopiesAreLegal : Prop :=
  ∀ (overlap : Bool) (stream : List Byte) (window maxMatch : Nat),
    1 ≤ window → window ≤ 255 → 1 ≤ maxMatch → maxMatch ≤ 255 →
    ∀ d l, LzRecord.copy d l ∈ lzEncode overlap stream window maxMatch →
      1 ≤ d.toNat ∧ d.toNat ≤ window ∧ 2 ≤ l.toNat ∧ l.toNat ≤ min maxMatch window

/-- Decoding the record bytes of an encoded stream gives the stream back, and a larger window decodes the same bytes.
The spec infers both from R225, R227, R228 and R261: its sentences are R229 and the first point of R441, marked as
derived. -/
def Obligations.LzRoundTrip : Prop :=
  (∀ (overlap : Bool) (stream : List Byte) (window maxMatch : Nat),
    1 ≤ window → window ≤ 255 → 1 ≤ maxMatch → maxMatch ≤ 255 →
    lzDecodeBytes window (lzSerialize (lzEncode overlap stream window maxMatch)) = .ok stream) ∧
  ∀ (window larger : Nat) (bs out : List Byte), window ≤ larger →
    lzDecodeBytes window bs = .ok out → lzDecodeBytes larger bs = .ok out

/-- Replaying a Copy that the history allows appends `length` bytes, each equal to the byte `distance` before it,
those just written included; any other Copy faults LZ_BAD_COPY (R227). -/
def Obligations.CopyReplay : Prop :=
  ∀ (window : Nat) (out : List Byte) (d l : Byte), d ≠ 0 →
    (l ≠ 0 → d.toNat ≤ min out.length window → ∃ out', applyRecord window out (.copy d l) = .ok out' ∧
      out'.length = out.length + l.toNat ∧ out'.take out.length = out ∧
      ∀ k, k < l.toNat → out'[out.length + k]? = out'[out.length + k - d.toNat]?) ∧
    (l = 0 ∨ min out.length window < d.toNat → applyRecord window out (.copy d l) = .error .lzBadCopy)

/-- The cipher keeps the length and shifts byte i by KS(seed, i), added on encode and subtracted on decode
(R301, R302); decoding undoes encoding under the same seed. The spec infers the last from R301 and R302: its sentence is
R305, marked as derived. -/
def Obligations.CipherLaws : Prop :=
  ∀ (p : Params) (seed : BitVec 64) (bs : List Byte),
    (cipherEnc p seed bs).length = bs.length ∧ (cipherDec p seed bs).length = bs.length ∧
    (∀ i b, bs[i]? = some b →
      (cipherEnc p seed bs)[i]? = some (BitVec.ofNat 8 ((b.toNat + (p.ks seed i).toNat) % 256)) ∧
      (cipherDec p seed bs)[i]? = some (BitVec.ofNat 8 ((b.toNat + 256 - (p.ks seed i).toNat) % 256))) ∧
    cipherDec p seed (cipherEnc p seed bs) = bs

/-- The per-file pipeline: unpacking what packing a file gave gives the file back, under each flag value; the
cipher stage undoes itself there (the spec's inference in R305). The spec infers this from R320 and R321: its sentence
is R322, marked as derived. -/
def Obligations.PipelineRoundTrip : Prop :=
  ∀ (p : Params) (c : PipeConfig) (file region : List Byte),
    1 ≤ c.blockSize → c.blockSize ≤ 2 ^ 27 → 1 ≤ c.maxCodeLen → c.maxCodeLen ≤ 255 →
    (c.lz = true → 1 ≤ c.window ∧ c.window ≤ 255 ∧ 1 ≤ c.maxMatch ∧ c.maxMatch ≤ 255) →
    packFile p c file = .ok region → ∃ tables, unpackFile p c region = .ok (file, tables)

/-! ### Invariants -/

/-- The invariant holds after power-on reset (R23, R41, R42, R430). -/
def Obligations.ResetIsSound : Prop := Inv Params.hw State.reset

/-- Every step keeps the invariant: the bit buffer, SYMTAB and STATUS keep their forms, ARCH_MEM its canonical form,
its address space and a written byte below ARCH_LEN, an opened archive its framing (R23, R33, R34, R41, R42, R60,
R61, R331). That ARC_W and ARC_R are never both 1, and that every byte below ARCH_LEN has been written, are the model's
inferences (log entries 9 and 10). -/
def Obligations.StepKeepsTheInvariant : Prop :=
  ∀ s t : State, Inv Params.hw s → step s = .next t → Inv Params.hw t

/-- From a sound state the step never stops: no read of ARCH_MEM goes to or above ARCH_LEN (R61) or to a byte that was
never written (the spec's inference in R431, marked as derived; log entries 9 and 10), and no word is refused. -/
def Obligations.SoundStatesRun : Prop :=
  ∀ s : State, Inv Params.hw s → Runs (step s)
end

