-- ==== Sys2Proof/Laws/State.lean ====
section
/-! SUPPORT. One lemma per field of State and per update of it, each true by rfl, so that no proof unfolds a record update. -/

namespace Sys2Proof.Machine

open Sys2Proof

section CsrWrites
variable (s : State) (v : Word)

@[simp] theorem State.withStatus_inq : (s.withStatus v).inq = s.inq := rfl
@[simp] theorem State.withStatus_outq : (s.withStatus v).outq = s.outq := rfl
@[simp] theorem State.withStatus_arch : (s.withStatus v).arch = s.arch := rfl
@[simp] theorem State.withStatus_bb : (s.withStatus v).bb = s.bb := rfl
@[simp] theorem State.withStatus_symtab : (s.withStatus v).symtab = s.symtab := rfl
@[simp] theorem State.withStatus_port : (s.withStatus v).port = s.port := rfl
@[simp] theorem State.withStatus_hostq : (s.withStatus v).hostq = s.hostq := rfl
@[simp] theorem State.withStatus_retired : (s.withStatus v).retired = s.retired := rfl
@[simp] theorem State.withStatus_choice : (s.withStatus v).choice = s.choice := rfl
@[simp] theorem State.withStatus_csr_status : (s.withStatus v).csr.status = v := rfl
@[simp] theorem State.withStatus_csr_res0 : (s.withStatus v).csr.res0 = s.csr.res0 := rfl
@[simp] theorem State.withStatus_csr_res1 : (s.withStatus v).csr.res1 = s.csr.res1 := rfl
@[simp] theorem State.withStatus_csr_res2 : (s.withStatus v).csr.res2 = s.csr.res2 := rfl
@[simp] theorem State.withStatus_csr_res3 : (s.withStatus v).csr.res3 = s.csr.res3 := rfl
@[simp] theorem State.withStatus_csr_arg0 : (s.withStatus v).csr.arg0 = s.csr.arg0 := rfl
@[simp] theorem State.withStatus_csr_arg1 : (s.withStatus v).csr.arg1 = s.csr.arg1 := rfl
@[simp] theorem State.withStatus_csr_arg2 : (s.withStatus v).csr.arg2 = s.csr.arg2 := rfl
@[simp] theorem State.withStatus_csr_arg3 : (s.withStatus v).csr.arg3 = s.csr.arg3 := rfl
@[simp] theorem State.withStatus_csr_hufBlockSize : (s.withStatus v).csr.hufBlockSize = s.csr.hufBlockSize := rfl
@[simp] theorem State.withStatus_csr_hufMaxCodeLen : (s.withStatus v).csr.hufMaxCodeLen = s.csr.hufMaxCodeLen := rfl
@[simp] theorem State.withStatus_csr_lzWindow : (s.withStatus v).csr.lzWindow = s.csr.lzWindow := rfl
@[simp] theorem State.withStatus_csr_lzMaxMatch : (s.withStatus v).csr.lzMaxMatch = s.csr.lzMaxMatch := rfl
@[simp] theorem State.withStatus_csr_flags : (s.withStatus v).csr.flags = s.csr.flags := rfl
@[simp] theorem State.withStatus_csr_seedLo : (s.withStatus v).csr.seedLo = s.csr.seedLo := rfl
@[simp] theorem State.withStatus_csr_seedHi : (s.withStatus v).csr.seedHi = s.csr.seedHi := rfl
@[simp] theorem State.withStatus_csr_quotaLo : (s.withStatus v).csr.quotaLo = s.csr.quotaLo := rfl
@[simp] theorem State.withStatus_csr_quotaHi : (s.withStatus v).csr.quotaHi = s.csr.quotaHi := rfl
@[simp] theorem State.withStatus_csr_archLen : (s.withStatus v).csr.archLen = s.csr.archLen := rfl
@[simp] theorem State.withStatus_csr_arcFlags : (s.withStatus v).csr.arcFlags = s.csr.arcFlags := rfl
@[simp] theorem State.withStatus_csr_treePtr : (s.withStatus v).csr.treePtr = s.csr.treePtr := rfl

@[simp] theorem State.withRes0_inq : (s.withRes0 v).inq = s.inq := rfl
@[simp] theorem State.withRes0_outq : (s.withRes0 v).outq = s.outq := rfl
@[simp] theorem State.withRes0_arch : (s.withRes0 v).arch = s.arch := rfl
@[simp] theorem State.withRes0_bb : (s.withRes0 v).bb = s.bb := rfl
@[simp] theorem State.withRes0_symtab : (s.withRes0 v).symtab = s.symtab := rfl
@[simp] theorem State.withRes0_port : (s.withRes0 v).port = s.port := rfl
@[simp] theorem State.withRes0_hostq : (s.withRes0 v).hostq = s.hostq := rfl
@[simp] theorem State.withRes0_retired : (s.withRes0 v).retired = s.retired := rfl
@[simp] theorem State.withRes0_choice : (s.withRes0 v).choice = s.choice := rfl
@[simp] theorem State.withRes0_csr_status : (s.withRes0 v).csr.status = s.csr.status := rfl
@[simp] theorem State.withRes0_csr_res0 : (s.withRes0 v).csr.res0 = v := rfl
@[simp] theorem State.withRes0_csr_res1 : (s.withRes0 v).csr.res1 = s.csr.res1 := rfl
@[simp] theorem State.withRes0_csr_res2 : (s.withRes0 v).csr.res2 = s.csr.res2 := rfl
@[simp] theorem State.withRes0_csr_res3 : (s.withRes0 v).csr.res3 = s.csr.res3 := rfl
@[simp] theorem State.withRes0_csr_arg0 : (s.withRes0 v).csr.arg0 = s.csr.arg0 := rfl
@[simp] theorem State.withRes0_csr_arg1 : (s.withRes0 v).csr.arg1 = s.csr.arg1 := rfl
@[simp] theorem State.withRes0_csr_arg2 : (s.withRes0 v).csr.arg2 = s.csr.arg2 := rfl
@[simp] theorem State.withRes0_csr_arg3 : (s.withRes0 v).csr.arg3 = s.csr.arg3 := rfl
@[simp] theorem State.withRes0_csr_hufBlockSize : (s.withRes0 v).csr.hufBlockSize = s.csr.hufBlockSize := rfl
@[simp] theorem State.withRes0_csr_hufMaxCodeLen : (s.withRes0 v).csr.hufMaxCodeLen = s.csr.hufMaxCodeLen := rfl
@[simp] theorem State.withRes0_csr_lzWindow : (s.withRes0 v).csr.lzWindow = s.csr.lzWindow := rfl
@[simp] theorem State.withRes0_csr_lzMaxMatch : (s.withRes0 v).csr.lzMaxMatch = s.csr.lzMaxMatch := rfl
@[simp] theorem State.withRes0_csr_flags : (s.withRes0 v).csr.flags = s.csr.flags := rfl
@[simp] theorem State.withRes0_csr_seedLo : (s.withRes0 v).csr.seedLo = s.csr.seedLo := rfl
@[simp] theorem State.withRes0_csr_seedHi : (s.withRes0 v).csr.seedHi = s.csr.seedHi := rfl
@[simp] theorem State.withRes0_csr_quotaLo : (s.withRes0 v).csr.quotaLo = s.csr.quotaLo := rfl
@[simp] theorem State.withRes0_csr_quotaHi : (s.withRes0 v).csr.quotaHi = s.csr.quotaHi := rfl
@[simp] theorem State.withRes0_csr_archLen : (s.withRes0 v).csr.archLen = s.csr.archLen := rfl
@[simp] theorem State.withRes0_csr_arcFlags : (s.withRes0 v).csr.arcFlags = s.csr.arcFlags := rfl
@[simp] theorem State.withRes0_csr_treePtr : (s.withRes0 v).csr.treePtr = s.csr.treePtr := rfl

@[simp] theorem State.withRes1_inq : (s.withRes1 v).inq = s.inq := rfl
@[simp] theorem State.withRes1_outq : (s.withRes1 v).outq = s.outq := rfl
@[simp] theorem State.withRes1_arch : (s.withRes1 v).arch = s.arch := rfl
@[simp] theorem State.withRes1_bb : (s.withRes1 v).bb = s.bb := rfl
@[simp] theorem State.withRes1_symtab : (s.withRes1 v).symtab = s.symtab := rfl
@[simp] theorem State.withRes1_port : (s.withRes1 v).port = s.port := rfl
@[simp] theorem State.withRes1_hostq : (s.withRes1 v).hostq = s.hostq := rfl
@[simp] theorem State.withRes1_retired : (s.withRes1 v).retired = s.retired := rfl
@[simp] theorem State.withRes1_choice : (s.withRes1 v).choice = s.choice := rfl
@[simp] theorem State.withRes1_csr_status : (s.withRes1 v).csr.status = s.csr.status := rfl
@[simp] theorem State.withRes1_csr_res0 : (s.withRes1 v).csr.res0 = s.csr.res0 := rfl
@[simp] theorem State.withRes1_csr_res1 : (s.withRes1 v).csr.res1 = v := rfl
@[simp] theorem State.withRes1_csr_res2 : (s.withRes1 v).csr.res2 = s.csr.res2 := rfl
@[simp] theorem State.withRes1_csr_res3 : (s.withRes1 v).csr.res3 = s.csr.res3 := rfl
@[simp] theorem State.withRes1_csr_arg0 : (s.withRes1 v).csr.arg0 = s.csr.arg0 := rfl
@[simp] theorem State.withRes1_csr_arg1 : (s.withRes1 v).csr.arg1 = s.csr.arg1 := rfl
@[simp] theorem State.withRes1_csr_arg2 : (s.withRes1 v).csr.arg2 = s.csr.arg2 := rfl
@[simp] theorem State.withRes1_csr_arg3 : (s.withRes1 v).csr.arg3 = s.csr.arg3 := rfl
@[simp] theorem State.withRes1_csr_hufBlockSize : (s.withRes1 v).csr.hufBlockSize = s.csr.hufBlockSize := rfl
@[simp] theorem State.withRes1_csr_hufMaxCodeLen : (s.withRes1 v).csr.hufMaxCodeLen = s.csr.hufMaxCodeLen := rfl
@[simp] theorem State.withRes1_csr_lzWindow : (s.withRes1 v).csr.lzWindow = s.csr.lzWindow := rfl
@[simp] theorem State.withRes1_csr_lzMaxMatch : (s.withRes1 v).csr.lzMaxMatch = s.csr.lzMaxMatch := rfl
@[simp] theorem State.withRes1_csr_flags : (s.withRes1 v).csr.flags = s.csr.flags := rfl
@[simp] theorem State.withRes1_csr_seedLo : (s.withRes1 v).csr.seedLo = s.csr.seedLo := rfl
@[simp] theorem State.withRes1_csr_seedHi : (s.withRes1 v).csr.seedHi = s.csr.seedHi := rfl
@[simp] theorem State.withRes1_csr_quotaLo : (s.withRes1 v).csr.quotaLo = s.csr.quotaLo := rfl
@[simp] theorem State.withRes1_csr_quotaHi : (s.withRes1 v).csr.quotaHi = s.csr.quotaHi := rfl
@[simp] theorem State.withRes1_csr_archLen : (s.withRes1 v).csr.archLen = s.csr.archLen := rfl
@[simp] theorem State.withRes1_csr_arcFlags : (s.withRes1 v).csr.arcFlags = s.csr.arcFlags := rfl
@[simp] theorem State.withRes1_csr_treePtr : (s.withRes1 v).csr.treePtr = s.csr.treePtr := rfl

@[simp] theorem State.withRes2_inq : (s.withRes2 v).inq = s.inq := rfl
@[simp] theorem State.withRes2_outq : (s.withRes2 v).outq = s.outq := rfl
@[simp] theorem State.withRes2_arch : (s.withRes2 v).arch = s.arch := rfl
@[simp] theorem State.withRes2_bb : (s.withRes2 v).bb = s.bb := rfl
@[simp] theorem State.withRes2_symtab : (s.withRes2 v).symtab = s.symtab := rfl
@[simp] theorem State.withRes2_port : (s.withRes2 v).port = s.port := rfl
@[simp] theorem State.withRes2_hostq : (s.withRes2 v).hostq = s.hostq := rfl
@[simp] theorem State.withRes2_retired : (s.withRes2 v).retired = s.retired := rfl
@[simp] theorem State.withRes2_choice : (s.withRes2 v).choice = s.choice := rfl
@[simp] theorem State.withRes2_csr_status : (s.withRes2 v).csr.status = s.csr.status := rfl
@[simp] theorem State.withRes2_csr_res0 : (s.withRes2 v).csr.res0 = s.csr.res0 := rfl
@[simp] theorem State.withRes2_csr_res1 : (s.withRes2 v).csr.res1 = s.csr.res1 := rfl
@[simp] theorem State.withRes2_csr_res2 : (s.withRes2 v).csr.res2 = v := rfl
@[simp] theorem State.withRes2_csr_res3 : (s.withRes2 v).csr.res3 = s.csr.res3 := rfl
@[simp] theorem State.withRes2_csr_arg0 : (s.withRes2 v).csr.arg0 = s.csr.arg0 := rfl
@[simp] theorem State.withRes2_csr_arg1 : (s.withRes2 v).csr.arg1 = s.csr.arg1 := rfl
@[simp] theorem State.withRes2_csr_arg2 : (s.withRes2 v).csr.arg2 = s.csr.arg2 := rfl
@[simp] theorem State.withRes2_csr_arg3 : (s.withRes2 v).csr.arg3 = s.csr.arg3 := rfl
@[simp] theorem State.withRes2_csr_hufBlockSize : (s.withRes2 v).csr.hufBlockSize = s.csr.hufBlockSize := rfl
@[simp] theorem State.withRes2_csr_hufMaxCodeLen : (s.withRes2 v).csr.hufMaxCodeLen = s.csr.hufMaxCodeLen := rfl
@[simp] theorem State.withRes2_csr_lzWindow : (s.withRes2 v).csr.lzWindow = s.csr.lzWindow := rfl
@[simp] theorem State.withRes2_csr_lzMaxMatch : (s.withRes2 v).csr.lzMaxMatch = s.csr.lzMaxMatch := rfl
@[simp] theorem State.withRes2_csr_flags : (s.withRes2 v).csr.flags = s.csr.flags := rfl
@[simp] theorem State.withRes2_csr_seedLo : (s.withRes2 v).csr.seedLo = s.csr.seedLo := rfl
@[simp] theorem State.withRes2_csr_seedHi : (s.withRes2 v).csr.seedHi = s.csr.seedHi := rfl
@[simp] theorem State.withRes2_csr_quotaLo : (s.withRes2 v).csr.quotaLo = s.csr.quotaLo := rfl
@[simp] theorem State.withRes2_csr_quotaHi : (s.withRes2 v).csr.quotaHi = s.csr.quotaHi := rfl
@[simp] theorem State.withRes2_csr_archLen : (s.withRes2 v).csr.archLen = s.csr.archLen := rfl
@[simp] theorem State.withRes2_csr_arcFlags : (s.withRes2 v).csr.arcFlags = s.csr.arcFlags := rfl
@[simp] theorem State.withRes2_csr_treePtr : (s.withRes2 v).csr.treePtr = s.csr.treePtr := rfl

@[simp] theorem State.withRes3_inq : (s.withRes3 v).inq = s.inq := rfl
@[simp] theorem State.withRes3_outq : (s.withRes3 v).outq = s.outq := rfl
@[simp] theorem State.withRes3_arch : (s.withRes3 v).arch = s.arch := rfl
@[simp] theorem State.withRes3_bb : (s.withRes3 v).bb = s.bb := rfl
@[simp] theorem State.withRes3_symtab : (s.withRes3 v).symtab = s.symtab := rfl
@[simp] theorem State.withRes3_port : (s.withRes3 v).port = s.port := rfl
@[simp] theorem State.withRes3_hostq : (s.withRes3 v).hostq = s.hostq := rfl
@[simp] theorem State.withRes3_retired : (s.withRes3 v).retired = s.retired := rfl
@[simp] theorem State.withRes3_choice : (s.withRes3 v).choice = s.choice := rfl
@[simp] theorem State.withRes3_csr_status : (s.withRes3 v).csr.status = s.csr.status := rfl
@[simp] theorem State.withRes3_csr_res0 : (s.withRes3 v).csr.res0 = s.csr.res0 := rfl
@[simp] theorem State.withRes3_csr_res1 : (s.withRes3 v).csr.res1 = s.csr.res1 := rfl
@[simp] theorem State.withRes3_csr_res2 : (s.withRes3 v).csr.res2 = s.csr.res2 := rfl
@[simp] theorem State.withRes3_csr_res3 : (s.withRes3 v).csr.res3 = v := rfl
@[simp] theorem State.withRes3_csr_arg0 : (s.withRes3 v).csr.arg0 = s.csr.arg0 := rfl
@[simp] theorem State.withRes3_csr_arg1 : (s.withRes3 v).csr.arg1 = s.csr.arg1 := rfl
@[simp] theorem State.withRes3_csr_arg2 : (s.withRes3 v).csr.arg2 = s.csr.arg2 := rfl
@[simp] theorem State.withRes3_csr_arg3 : (s.withRes3 v).csr.arg3 = s.csr.arg3 := rfl
@[simp] theorem State.withRes3_csr_hufBlockSize : (s.withRes3 v).csr.hufBlockSize = s.csr.hufBlockSize := rfl
@[simp] theorem State.withRes3_csr_hufMaxCodeLen : (s.withRes3 v).csr.hufMaxCodeLen = s.csr.hufMaxCodeLen := rfl
@[simp] theorem State.withRes3_csr_lzWindow : (s.withRes3 v).csr.lzWindow = s.csr.lzWindow := rfl
@[simp] theorem State.withRes3_csr_lzMaxMatch : (s.withRes3 v).csr.lzMaxMatch = s.csr.lzMaxMatch := rfl
@[simp] theorem State.withRes3_csr_flags : (s.withRes3 v).csr.flags = s.csr.flags := rfl
@[simp] theorem State.withRes3_csr_seedLo : (s.withRes3 v).csr.seedLo = s.csr.seedLo := rfl
@[simp] theorem State.withRes3_csr_seedHi : (s.withRes3 v).csr.seedHi = s.csr.seedHi := rfl
@[simp] theorem State.withRes3_csr_quotaLo : (s.withRes3 v).csr.quotaLo = s.csr.quotaLo := rfl
@[simp] theorem State.withRes3_csr_quotaHi : (s.withRes3 v).csr.quotaHi = s.csr.quotaHi := rfl
@[simp] theorem State.withRes3_csr_archLen : (s.withRes3 v).csr.archLen = s.csr.archLen := rfl
@[simp] theorem State.withRes3_csr_arcFlags : (s.withRes3 v).csr.arcFlags = s.csr.arcFlags := rfl
@[simp] theorem State.withRes3_csr_treePtr : (s.withRes3 v).csr.treePtr = s.csr.treePtr := rfl

@[simp] theorem State.withArchLen_inq : (s.withArchLen v).inq = s.inq := rfl
@[simp] theorem State.withArchLen_outq : (s.withArchLen v).outq = s.outq := rfl
@[simp] theorem State.withArchLen_arch : (s.withArchLen v).arch = s.arch := rfl
@[simp] theorem State.withArchLen_bb : (s.withArchLen v).bb = s.bb := rfl
@[simp] theorem State.withArchLen_symtab : (s.withArchLen v).symtab = s.symtab := rfl
@[simp] theorem State.withArchLen_port : (s.withArchLen v).port = s.port := rfl
@[simp] theorem State.withArchLen_hostq : (s.withArchLen v).hostq = s.hostq := rfl
@[simp] theorem State.withArchLen_retired : (s.withArchLen v).retired = s.retired := rfl
@[simp] theorem State.withArchLen_choice : (s.withArchLen v).choice = s.choice := rfl
@[simp] theorem State.withArchLen_csr_status : (s.withArchLen v).csr.status = s.csr.status := rfl
@[simp] theorem State.withArchLen_csr_res0 : (s.withArchLen v).csr.res0 = s.csr.res0 := rfl
@[simp] theorem State.withArchLen_csr_res1 : (s.withArchLen v).csr.res1 = s.csr.res1 := rfl
@[simp] theorem State.withArchLen_csr_res2 : (s.withArchLen v).csr.res2 = s.csr.res2 := rfl
@[simp] theorem State.withArchLen_csr_res3 : (s.withArchLen v).csr.res3 = s.csr.res3 := rfl
@[simp] theorem State.withArchLen_csr_arg0 : (s.withArchLen v).csr.arg0 = s.csr.arg0 := rfl
@[simp] theorem State.withArchLen_csr_arg1 : (s.withArchLen v).csr.arg1 = s.csr.arg1 := rfl
@[simp] theorem State.withArchLen_csr_arg2 : (s.withArchLen v).csr.arg2 = s.csr.arg2 := rfl
@[simp] theorem State.withArchLen_csr_arg3 : (s.withArchLen v).csr.arg3 = s.csr.arg3 := rfl
@[simp] theorem State.withArchLen_csr_hufBlockSize : (s.withArchLen v).csr.hufBlockSize = s.csr.hufBlockSize := rfl
@[simp] theorem State.withArchLen_csr_hufMaxCodeLen : (s.withArchLen v).csr.hufMaxCodeLen = s.csr.hufMaxCodeLen := rfl
@[simp] theorem State.withArchLen_csr_lzWindow : (s.withArchLen v).csr.lzWindow = s.csr.lzWindow := rfl
@[simp] theorem State.withArchLen_csr_lzMaxMatch : (s.withArchLen v).csr.lzMaxMatch = s.csr.lzMaxMatch := rfl
@[simp] theorem State.withArchLen_csr_flags : (s.withArchLen v).csr.flags = s.csr.flags := rfl
@[simp] theorem State.withArchLen_csr_seedLo : (s.withArchLen v).csr.seedLo = s.csr.seedLo := rfl
@[simp] theorem State.withArchLen_csr_seedHi : (s.withArchLen v).csr.seedHi = s.csr.seedHi := rfl
@[simp] theorem State.withArchLen_csr_quotaLo : (s.withArchLen v).csr.quotaLo = s.csr.quotaLo := rfl
@[simp] theorem State.withArchLen_csr_quotaHi : (s.withArchLen v).csr.quotaHi = s.csr.quotaHi := rfl
@[simp] theorem State.withArchLen_csr_archLen : (s.withArchLen v).csr.archLen = v := rfl
@[simp] theorem State.withArchLen_csr_arcFlags : (s.withArchLen v).csr.arcFlags = s.csr.arcFlags := rfl
@[simp] theorem State.withArchLen_csr_treePtr : (s.withArchLen v).csr.treePtr = s.csr.treePtr := rfl

@[simp] theorem State.withArcFlags_inq : (s.withArcFlags v).inq = s.inq := rfl
@[simp] theorem State.withArcFlags_outq : (s.withArcFlags v).outq = s.outq := rfl
@[simp] theorem State.withArcFlags_arch : (s.withArcFlags v).arch = s.arch := rfl
@[simp] theorem State.withArcFlags_bb : (s.withArcFlags v).bb = s.bb := rfl
@[simp] theorem State.withArcFlags_symtab : (s.withArcFlags v).symtab = s.symtab := rfl
@[simp] theorem State.withArcFlags_port : (s.withArcFlags v).port = s.port := rfl
@[simp] theorem State.withArcFlags_hostq : (s.withArcFlags v).hostq = s.hostq := rfl
@[simp] theorem State.withArcFlags_retired : (s.withArcFlags v).retired = s.retired := rfl
@[simp] theorem State.withArcFlags_choice : (s.withArcFlags v).choice = s.choice := rfl
@[simp] theorem State.withArcFlags_csr_status : (s.withArcFlags v).csr.status = s.csr.status := rfl
@[simp] theorem State.withArcFlags_csr_res0 : (s.withArcFlags v).csr.res0 = s.csr.res0 := rfl
@[simp] theorem State.withArcFlags_csr_res1 : (s.withArcFlags v).csr.res1 = s.csr.res1 := rfl
@[simp] theorem State.withArcFlags_csr_res2 : (s.withArcFlags v).csr.res2 = s.csr.res2 := rfl
@[simp] theorem State.withArcFlags_csr_res3 : (s.withArcFlags v).csr.res3 = s.csr.res3 := rfl
@[simp] theorem State.withArcFlags_csr_arg0 : (s.withArcFlags v).csr.arg0 = s.csr.arg0 := rfl
@[simp] theorem State.withArcFlags_csr_arg1 : (s.withArcFlags v).csr.arg1 = s.csr.arg1 := rfl
@[simp] theorem State.withArcFlags_csr_arg2 : (s.withArcFlags v).csr.arg2 = s.csr.arg2 := rfl
@[simp] theorem State.withArcFlags_csr_arg3 : (s.withArcFlags v).csr.arg3 = s.csr.arg3 := rfl
@[simp] theorem State.withArcFlags_csr_hufBlockSize : (s.withArcFlags v).csr.hufBlockSize = s.csr.hufBlockSize := rfl
@[simp] theorem State.withArcFlags_csr_hufMaxCodeLen : (s.withArcFlags v).csr.hufMaxCodeLen = s.csr.hufMaxCodeLen := rfl
@[simp] theorem State.withArcFlags_csr_lzWindow : (s.withArcFlags v).csr.lzWindow = s.csr.lzWindow := rfl
@[simp] theorem State.withArcFlags_csr_lzMaxMatch : (s.withArcFlags v).csr.lzMaxMatch = s.csr.lzMaxMatch := rfl
@[simp] theorem State.withArcFlags_csr_flags : (s.withArcFlags v).csr.flags = s.csr.flags := rfl
@[simp] theorem State.withArcFlags_csr_seedLo : (s.withArcFlags v).csr.seedLo = s.csr.seedLo := rfl
@[simp] theorem State.withArcFlags_csr_seedHi : (s.withArcFlags v).csr.seedHi = s.csr.seedHi := rfl
@[simp] theorem State.withArcFlags_csr_quotaLo : (s.withArcFlags v).csr.quotaLo = s.csr.quotaLo := rfl
@[simp] theorem State.withArcFlags_csr_quotaHi : (s.withArcFlags v).csr.quotaHi = s.csr.quotaHi := rfl
@[simp] theorem State.withArcFlags_csr_archLen : (s.withArcFlags v).csr.archLen = s.csr.archLen := rfl
@[simp] theorem State.withArcFlags_csr_arcFlags : (s.withArcFlags v).csr.arcFlags = v := rfl
@[simp] theorem State.withArcFlags_csr_treePtr : (s.withArcFlags v).csr.treePtr = s.csr.treePtr := rfl

@[simp] theorem State.withTreePtr_inq : (s.withTreePtr v).inq = s.inq := rfl
@[simp] theorem State.withTreePtr_outq : (s.withTreePtr v).outq = s.outq := rfl
@[simp] theorem State.withTreePtr_arch : (s.withTreePtr v).arch = s.arch := rfl
@[simp] theorem State.withTreePtr_bb : (s.withTreePtr v).bb = s.bb := rfl
@[simp] theorem State.withTreePtr_symtab : (s.withTreePtr v).symtab = s.symtab := rfl
@[simp] theorem State.withTreePtr_port : (s.withTreePtr v).port = s.port := rfl
@[simp] theorem State.withTreePtr_hostq : (s.withTreePtr v).hostq = s.hostq := rfl
@[simp] theorem State.withTreePtr_retired : (s.withTreePtr v).retired = s.retired := rfl
@[simp] theorem State.withTreePtr_choice : (s.withTreePtr v).choice = s.choice := rfl
@[simp] theorem State.withTreePtr_csr_status : (s.withTreePtr v).csr.status = s.csr.status := rfl
@[simp] theorem State.withTreePtr_csr_res0 : (s.withTreePtr v).csr.res0 = s.csr.res0 := rfl
@[simp] theorem State.withTreePtr_csr_res1 : (s.withTreePtr v).csr.res1 = s.csr.res1 := rfl
@[simp] theorem State.withTreePtr_csr_res2 : (s.withTreePtr v).csr.res2 = s.csr.res2 := rfl
@[simp] theorem State.withTreePtr_csr_res3 : (s.withTreePtr v).csr.res3 = s.csr.res3 := rfl
@[simp] theorem State.withTreePtr_csr_arg0 : (s.withTreePtr v).csr.arg0 = s.csr.arg0 := rfl
@[simp] theorem State.withTreePtr_csr_arg1 : (s.withTreePtr v).csr.arg1 = s.csr.arg1 := rfl
@[simp] theorem State.withTreePtr_csr_arg2 : (s.withTreePtr v).csr.arg2 = s.csr.arg2 := rfl
@[simp] theorem State.withTreePtr_csr_arg3 : (s.withTreePtr v).csr.arg3 = s.csr.arg3 := rfl
@[simp] theorem State.withTreePtr_csr_hufBlockSize : (s.withTreePtr v).csr.hufBlockSize = s.csr.hufBlockSize := rfl
@[simp] theorem State.withTreePtr_csr_hufMaxCodeLen : (s.withTreePtr v).csr.hufMaxCodeLen = s.csr.hufMaxCodeLen := rfl
@[simp] theorem State.withTreePtr_csr_lzWindow : (s.withTreePtr v).csr.lzWindow = s.csr.lzWindow := rfl
@[simp] theorem State.withTreePtr_csr_lzMaxMatch : (s.withTreePtr v).csr.lzMaxMatch = s.csr.lzMaxMatch := rfl
@[simp] theorem State.withTreePtr_csr_flags : (s.withTreePtr v).csr.flags = s.csr.flags := rfl
@[simp] theorem State.withTreePtr_csr_seedLo : (s.withTreePtr v).csr.seedLo = s.csr.seedLo := rfl
@[simp] theorem State.withTreePtr_csr_seedHi : (s.withTreePtr v).csr.seedHi = s.csr.seedHi := rfl
@[simp] theorem State.withTreePtr_csr_quotaLo : (s.withTreePtr v).csr.quotaLo = s.csr.quotaLo := rfl
@[simp] theorem State.withTreePtr_csr_quotaHi : (s.withTreePtr v).csr.quotaHi = s.csr.quotaHi := rfl
@[simp] theorem State.withTreePtr_csr_archLen : (s.withTreePtr v).csr.archLen = s.csr.archLen := rfl
@[simp] theorem State.withTreePtr_csr_arcFlags : (s.withTreePtr v).csr.arcFlags = s.csr.arcFlags := rfl
@[simp] theorem State.withTreePtr_csr_treePtr : (s.withTreePtr v).csr.treePtr = v := rfl

end CsrWrites

section QuotaWrites
variable (s : State) (q : Nat)

@[simp] theorem State.withQuota_inq : (s.withQuota q).inq = s.inq := rfl
@[simp] theorem State.withQuota_outq : (s.withQuota q).outq = s.outq := rfl
@[simp] theorem State.withQuota_arch : (s.withQuota q).arch = s.arch := rfl
@[simp] theorem State.withQuota_bb : (s.withQuota q).bb = s.bb := rfl
@[simp] theorem State.withQuota_symtab : (s.withQuota q).symtab = s.symtab := rfl
@[simp] theorem State.withQuota_port : (s.withQuota q).port = s.port := rfl
@[simp] theorem State.withQuota_hostq : (s.withQuota q).hostq = s.hostq := rfl
@[simp] theorem State.withQuota_retired : (s.withQuota q).retired = s.retired := rfl
@[simp] theorem State.withQuota_choice : (s.withQuota q).choice = s.choice := rfl
@[simp] theorem State.withQuota_csr_status : (s.withQuota q).csr.status = s.csr.status := rfl
@[simp] theorem State.withQuota_csr_res0 : (s.withQuota q).csr.res0 = s.csr.res0 := rfl
@[simp] theorem State.withQuota_csr_res1 : (s.withQuota q).csr.res1 = s.csr.res1 := rfl
@[simp] theorem State.withQuota_csr_res2 : (s.withQuota q).csr.res2 = s.csr.res2 := rfl
@[simp] theorem State.withQuota_csr_res3 : (s.withQuota q).csr.res3 = s.csr.res3 := rfl
@[simp] theorem State.withQuota_csr_arg0 : (s.withQuota q).csr.arg0 = s.csr.arg0 := rfl
@[simp] theorem State.withQuota_csr_arg1 : (s.withQuota q).csr.arg1 = s.csr.arg1 := rfl
@[simp] theorem State.withQuota_csr_arg2 : (s.withQuota q).csr.arg2 = s.csr.arg2 := rfl
@[simp] theorem State.withQuota_csr_arg3 : (s.withQuota q).csr.arg3 = s.csr.arg3 := rfl
@[simp] theorem State.withQuota_csr_hufBlockSize : (s.withQuota q).csr.hufBlockSize = s.csr.hufBlockSize := rfl
@[simp] theorem State.withQuota_csr_hufMaxCodeLen : (s.withQuota q).csr.hufMaxCodeLen = s.csr.hufMaxCodeLen := rfl
@[simp] theorem State.withQuota_csr_lzWindow : (s.withQuota q).csr.lzWindow = s.csr.lzWindow := rfl
@[simp] theorem State.withQuota_csr_lzMaxMatch : (s.withQuota q).csr.lzMaxMatch = s.csr.lzMaxMatch := rfl
@[simp] theorem State.withQuota_csr_flags : (s.withQuota q).csr.flags = s.csr.flags := rfl
@[simp] theorem State.withQuota_csr_seedLo : (s.withQuota q).csr.seedLo = s.csr.seedLo := rfl
@[simp] theorem State.withQuota_csr_seedHi : (s.withQuota q).csr.seedHi = s.csr.seedHi := rfl
@[simp] theorem State.withQuota_csr_quotaLo : (s.withQuota q).csr.quotaLo = lowWord q := rfl
@[simp] theorem State.withQuota_csr_quotaHi : (s.withQuota q).csr.quotaHi = highWord q := rfl
@[simp] theorem State.withQuota_csr_archLen : (s.withQuota q).csr.archLen = s.csr.archLen := rfl
@[simp] theorem State.withQuota_csr_arcFlags : (s.withQuota q).csr.arcFlags = s.csr.arcFlags := rfl
@[simp] theorem State.withQuota_csr_treePtr : (s.withQuota q).csr.treePtr = s.csr.treePtr := rfl

end QuotaWrites

section
variable (s : State) (ts : List Token)

@[simp] theorem State.withInq_csr : (s.withInq ts).csr = s.csr := rfl
@[simp] theorem State.withInq_inq : (s.withInq ts).inq = ts := rfl
@[simp] theorem State.withInq_outq : (s.withInq ts).outq = s.outq := rfl
@[simp] theorem State.withInq_arch : (s.withInq ts).arch = s.arch := rfl
@[simp] theorem State.withInq_bb : (s.withInq ts).bb = s.bb := rfl
@[simp] theorem State.withInq_symtab : (s.withInq ts).symtab = s.symtab := rfl
@[simp] theorem State.withInq_port : (s.withInq ts).port = s.port := rfl
@[simp] theorem State.withInq_hostq : (s.withInq ts).hostq = s.hostq := rfl
@[simp] theorem State.withInq_retired : (s.withInq ts).retired = s.retired := rfl
@[simp] theorem State.withInq_choice : (s.withInq ts).choice = s.choice := rfl

end

section
variable (s : State) (bs : List Byte)

@[simp] theorem State.pushOut_csr : (s.pushOut bs).csr = s.csr := rfl
@[simp] theorem State.pushOut_inq : (s.pushOut bs).inq = s.inq := rfl
@[simp] theorem State.pushOut_outq : (s.pushOut bs).outq = s.outq ++ bs := rfl
@[simp] theorem State.pushOut_arch : (s.pushOut bs).arch = s.arch := rfl
@[simp] theorem State.pushOut_bb : (s.pushOut bs).bb = s.bb := rfl
@[simp] theorem State.pushOut_symtab : (s.pushOut bs).symtab = s.symtab := rfl
@[simp] theorem State.pushOut_port : (s.pushOut bs).port = s.port := rfl
@[simp] theorem State.pushOut_hostq : (s.pushOut bs).hostq = s.hostq := rfl
@[simp] theorem State.pushOut_retired : (s.pushOut bs).retired = s.retired := rfl
@[simp] theorem State.pushOut_choice : (s.pushOut bs).choice = s.choice := rfl

end

section
variable (s : State) (m : Mem)

@[simp] theorem State.withArch_csr : (s.withArch m).csr = s.csr := rfl
@[simp] theorem State.withArch_inq : (s.withArch m).inq = s.inq := rfl
@[simp] theorem State.withArch_outq : (s.withArch m).outq = s.outq := rfl
@[simp] theorem State.withArch_arch : (s.withArch m).arch = m := rfl
@[simp] theorem State.withArch_bb : (s.withArch m).bb = s.bb := rfl
@[simp] theorem State.withArch_symtab : (s.withArch m).symtab = s.symtab := rfl
@[simp] theorem State.withArch_port : (s.withArch m).port = s.port := rfl
@[simp] theorem State.withArch_hostq : (s.withArch m).hostq = s.hostq := rfl
@[simp] theorem State.withArch_retired : (s.withArch m).retired = s.retired := rfl
@[simp] theorem State.withArch_choice : (s.withArch m).choice = s.choice := rfl

end

section
variable (s : State) (bb : BitBuffer)

@[simp] theorem State.withBb_csr : (s.withBb bb).csr = s.csr := rfl
@[simp] theorem State.withBb_inq : (s.withBb bb).inq = s.inq := rfl
@[simp] theorem State.withBb_outq : (s.withBb bb).outq = s.outq := rfl
@[simp] theorem State.withBb_arch : (s.withBb bb).arch = s.arch := rfl
@[simp] theorem State.withBb_bb : (s.withBb bb).bb = bb := rfl
@[simp] theorem State.withBb_symtab : (s.withBb bb).symtab = s.symtab := rfl
@[simp] theorem State.withBb_port : (s.withBb bb).port = s.port := rfl
@[simp] theorem State.withBb_hostq : (s.withBb bb).hostq = s.hostq := rfl
@[simp] theorem State.withBb_retired : (s.withBb bb).retired = s.retired := rfl
@[simp] theorem State.withBb_choice : (s.withBb bb).choice = s.choice := rfl

end

section
variable (s : State) (t : Symtab)

@[simp] theorem State.withSymtab_csr : (s.withSymtab t).csr = s.csr := rfl
@[simp] theorem State.withSymtab_inq : (s.withSymtab t).inq = s.inq := rfl
@[simp] theorem State.withSymtab_outq : (s.withSymtab t).outq = s.outq := rfl
@[simp] theorem State.withSymtab_arch : (s.withSymtab t).arch = s.arch := rfl
@[simp] theorem State.withSymtab_bb : (s.withSymtab t).bb = s.bb := rfl
@[simp] theorem State.withSymtab_symtab : (s.withSymtab t).symtab = t := rfl
@[simp] theorem State.withSymtab_port : (s.withSymtab t).port = s.port := rfl
@[simp] theorem State.withSymtab_hostq : (s.withSymtab t).hostq = s.hostq := rfl
@[simp] theorem State.withSymtab_retired : (s.withSymtab t).retired = s.retired := rfl
@[simp] theorem State.withSymtab_choice : (s.withSymtab t).choice = s.choice := rfl

end

section
variable (s : State)

@[simp] theorem State.retire_csr : s.retire.csr = s.csr := rfl
@[simp] theorem State.retire_inq : s.retire.inq = s.inq := rfl
@[simp] theorem State.retire_outq : s.retire.outq = s.outq := rfl
@[simp] theorem State.retire_arch : s.retire.arch = s.arch := rfl
@[simp] theorem State.retire_bb : s.retire.bb = s.bb := rfl
@[simp] theorem State.retire_symtab : s.retire.symtab = s.symtab := rfl
@[simp] theorem State.retire_port : s.retire.port = none := rfl
@[simp] theorem State.retire_hostq : s.retire.hostq = s.hostq := rfl
@[simp] theorem State.retire_retired : s.retire.retired = s.retired + 1 := rfl
@[simp] theorem State.retire_choice : s.retire.choice = s.choice := rfl
@[simp] theorem State.resetBlock_csr : s.resetBlock.csr = CsrFile.zero := rfl
@[simp] theorem State.resetBlock_inq : s.resetBlock.inq = [] := rfl
@[simp] theorem State.resetBlock_outq : s.resetBlock.outq = s.outq := rfl
@[simp] theorem State.resetBlock_arch : s.resetBlock.arch = s.arch := rfl
@[simp] theorem State.resetBlock_bb : s.resetBlock.bb = BitBuffer.empty := rfl
@[simp] theorem State.resetBlock_symtab : s.resetBlock.symtab = [] := rfl
@[simp] theorem State.resetBlock_port : s.resetBlock.port = s.port := rfl
@[simp] theorem State.resetBlock_hostq : s.resetBlock.hostq = s.hostq := rfl
@[simp] theorem State.resetBlock_retired : s.resetBlock.retired = s.retired := rfl
@[simp] theorem State.resetBlock_choice : s.resetBlock.choice = s.choice := rfl
@[simp] theorem State.powerOn_csr : s.powerOn.csr = CsrFile.zero := rfl
@[simp] theorem State.powerOn_inq : s.powerOn.inq = [] := rfl
@[simp] theorem State.powerOn_outq : s.powerOn.outq = [] := rfl
@[simp] theorem State.powerOn_arch : s.powerOn.arch = [] := rfl
@[simp] theorem State.powerOn_bb : s.powerOn.bb = BitBuffer.empty := rfl
@[simp] theorem State.powerOn_symtab : s.powerOn.symtab = [] := rfl
@[simp] theorem State.powerOn_port : s.powerOn.port = none := rfl
@[simp] theorem State.powerOn_hostq : s.powerOn.hostq = s.hostq := rfl
@[simp] theorem State.powerOn_retired : s.powerOn.retired = s.retired := rfl
@[simp] theorem State.powerOn_choice : s.powerOn.choice = s.choice := rfl

end

section
variable (p : Params) (rs : List (Nat × Nat)) (s : State)

@[simp] theorem State.unspecify_inq : (s.unspecify p rs).inq = s.inq.drop (min (p.faultTake s.choice) (streamTokens s.inq)) := rfl
@[simp] theorem State.unspecify_outq : (s.unspecify p rs).outq = s.outq ++ p.faultOut s.choice := rfl
@[simp] theorem State.unspecify_arch : (s.unspecify p rs).arch = rs.foldl (fun m r => scribble p s.choice r.1 r.2 m) s.arch := rfl
@[simp] theorem State.unspecify_bb : (s.unspecify p rs).bb = s.bb := rfl
@[simp] theorem State.unspecify_symtab : (s.unspecify p rs).symtab = s.symtab := rfl
@[simp] theorem State.unspecify_port : (s.unspecify p rs).port = s.port := rfl
@[simp] theorem State.unspecify_hostq : (s.unspecify p rs).hostq = s.hostq := rfl
@[simp] theorem State.unspecify_retired : (s.unspecify p rs).retired = s.retired := rfl
@[simp] theorem State.unspecify_choice : (s.unspecify p rs).choice = s.choice + 1 := rfl
@[simp] theorem State.unspecify_csr_status : (s.unspecify p rs).csr.status = s.csr.status := rfl
@[simp] theorem State.unspecify_csr_res0 : (s.unspecify p rs).csr.res0 = p.faultRes s.choice 0 := rfl
@[simp] theorem State.unspecify_csr_res1 : (s.unspecify p rs).csr.res1 = p.faultRes s.choice 1 := rfl
@[simp] theorem State.unspecify_csr_res2 : (s.unspecify p rs).csr.res2 = p.faultRes s.choice 2 := rfl
@[simp] theorem State.unspecify_csr_res3 : (s.unspecify p rs).csr.res3 = p.faultRes s.choice 3 := rfl
@[simp] theorem State.unspecify_csr_arg0 : (s.unspecify p rs).csr.arg0 = s.csr.arg0 := rfl
@[simp] theorem State.unspecify_csr_arg1 : (s.unspecify p rs).csr.arg1 = s.csr.arg1 := rfl
@[simp] theorem State.unspecify_csr_arg2 : (s.unspecify p rs).csr.arg2 = s.csr.arg2 := rfl
@[simp] theorem State.unspecify_csr_arg3 : (s.unspecify p rs).csr.arg3 = s.csr.arg3 := rfl
@[simp] theorem State.unspecify_csr_hufBlockSize : (s.unspecify p rs).csr.hufBlockSize = s.csr.hufBlockSize := rfl
@[simp] theorem State.unspecify_csr_hufMaxCodeLen : (s.unspecify p rs).csr.hufMaxCodeLen = s.csr.hufMaxCodeLen := rfl
@[simp] theorem State.unspecify_csr_lzWindow : (s.unspecify p rs).csr.lzWindow = s.csr.lzWindow := rfl
@[simp] theorem State.unspecify_csr_lzMaxMatch : (s.unspecify p rs).csr.lzMaxMatch = s.csr.lzMaxMatch := rfl
@[simp] theorem State.unspecify_csr_flags : (s.unspecify p rs).csr.flags = s.csr.flags := rfl
@[simp] theorem State.unspecify_csr_seedLo : (s.unspecify p rs).csr.seedLo = s.csr.seedLo := rfl
@[simp] theorem State.unspecify_csr_seedHi : (s.unspecify p rs).csr.seedHi = s.csr.seedHi := rfl
@[simp] theorem State.unspecify_csr_quotaLo : (s.unspecify p rs).csr.quotaLo = s.csr.quotaLo := rfl
@[simp] theorem State.unspecify_csr_quotaHi : (s.unspecify p rs).csr.quotaHi = s.csr.quotaHi := rfl
@[simp] theorem State.unspecify_csr_archLen : (s.unspecify p rs).csr.archLen = s.csr.archLen := rfl
@[simp] theorem State.unspecify_csr_arcFlags : (s.unspecify p rs).csr.arcFlags = s.csr.arcFlags := rfl
@[simp] theorem State.unspecify_csr_treePtr : (s.unspecify p rs).csr.treePtr = s.csr.treePtr := rfl

end

section
variable (s : State) (c : Csr) (v : Word)

@[simp] theorem State.writeCsr_inq : (s.writeCsr c v).inq = s.inq := rfl
@[simp] theorem State.writeCsr_outq : (s.writeCsr c v).outq = s.outq := rfl
@[simp] theorem State.writeCsr_arch : (s.writeCsr c v).arch = s.arch := rfl
@[simp] theorem State.writeCsr_bb : (s.writeCsr c v).bb = s.bb := rfl
@[simp] theorem State.writeCsr_symtab : (s.writeCsr c v).symtab = s.symtab := rfl
@[simp] theorem State.writeCsr_port : (s.writeCsr c v).port = s.port := rfl
@[simp] theorem State.writeCsr_hostq : (s.writeCsr c v).hostq = s.hostq := rfl
@[simp] theorem State.writeCsr_retired : (s.writeCsr c v).retired = s.retired := rfl
@[simp] theorem State.writeCsr_choice : (s.writeCsr c v).choice = s.choice := rfl
@[simp] theorem State.writeCsr_csr : (s.writeCsr c v).csr = s.csr.write c v := rfl
@[simp] theorem CsrFile.write_status (f : CsrFile) : (f.write c v).status = f.status := by cases c <;> rfl
@[simp] theorem CsrFile.write_res0 (f : CsrFile) : (f.write c v).res0 = f.res0 := by cases c <;> rfl
@[simp] theorem CsrFile.write_res1 (f : CsrFile) : (f.write c v).res1 = f.res1 := by cases c <;> rfl
@[simp] theorem CsrFile.write_res2 (f : CsrFile) : (f.write c v).res2 = f.res2 := by cases c <;> rfl
@[simp] theorem CsrFile.write_res3 (f : CsrFile) : (f.write c v).res3 = f.res3 := by cases c <;> rfl
@[simp] theorem CsrFile.write_archLen (f : CsrFile) : (f.write c v).archLen = f.archLen := by cases c <;> rfl
@[simp] theorem CsrFile.write_arcFlags (f : CsrFile) : (f.write c v).arcFlags = f.arcFlags := by cases c <;> rfl
@[simp] theorem CsrFile.write_treePtr (f : CsrFile) : (f.write c v).treePtr = f.treePtr := by cases c <;> rfl

end

section
variable (s : State) (n0 n1 n2 : Nat)

@[simp] theorem State.withCounts_inq : (s.withCounts n0 n1 n2).inq = s.inq := rfl
@[simp] theorem State.withCounts_outq : (s.withCounts n0 n1 n2).outq = s.outq := rfl
@[simp] theorem State.withCounts_arch : (s.withCounts n0 n1 n2).arch = s.arch := rfl
@[simp] theorem State.withCounts_bb : (s.withCounts n0 n1 n2).bb = s.bb := rfl
@[simp] theorem State.withCounts_symtab : (s.withCounts n0 n1 n2).symtab = s.symtab := rfl
@[simp] theorem State.withCounts_port : (s.withCounts n0 n1 n2).port = s.port := rfl
@[simp] theorem State.withCounts_hostq : (s.withCounts n0 n1 n2).hostq = s.hostq := rfl
@[simp] theorem State.withCounts_retired : (s.withCounts n0 n1 n2).retired = s.retired := rfl
@[simp] theorem State.withCounts_choice : (s.withCounts n0 n1 n2).choice = s.choice := rfl
@[simp] theorem State.withCounts_csr_status : (s.withCounts n0 n1 n2).csr.status = s.csr.status := rfl
@[simp] theorem State.withCounts_csr_res0 : (s.withCounts n0 n1 n2).csr.res0 = lowWord n0 := rfl
@[simp] theorem State.withCounts_csr_res1 : (s.withCounts n0 n1 n2).csr.res1 = lowWord n1 := rfl
@[simp] theorem State.withCounts_csr_res2 : (s.withCounts n0 n1 n2).csr.res2 = lowWord n2 := rfl
@[simp] theorem State.withCounts_csr_res3 : (s.withCounts n0 n1 n2).csr.res3 = s.csr.res3 := rfl
@[simp] theorem State.withCounts_csr_arg0 : (s.withCounts n0 n1 n2).csr.arg0 = s.csr.arg0 := rfl
@[simp] theorem State.withCounts_csr_arg1 : (s.withCounts n0 n1 n2).csr.arg1 = s.csr.arg1 := rfl
@[simp] theorem State.withCounts_csr_arg2 : (s.withCounts n0 n1 n2).csr.arg2 = s.csr.arg2 := rfl
@[simp] theorem State.withCounts_csr_arg3 : (s.withCounts n0 n1 n2).csr.arg3 = s.csr.arg3 := rfl
@[simp] theorem State.withCounts_csr_hufBlockSize : (s.withCounts n0 n1 n2).csr.hufBlockSize = s.csr.hufBlockSize := rfl
@[simp] theorem State.withCounts_csr_hufMaxCodeLen : (s.withCounts n0 n1 n2).csr.hufMaxCodeLen = s.csr.hufMaxCodeLen := rfl
@[simp] theorem State.withCounts_csr_lzWindow : (s.withCounts n0 n1 n2).csr.lzWindow = s.csr.lzWindow := rfl
@[simp] theorem State.withCounts_csr_lzMaxMatch : (s.withCounts n0 n1 n2).csr.lzMaxMatch = s.csr.lzMaxMatch := rfl
@[simp] theorem State.withCounts_csr_flags : (s.withCounts n0 n1 n2).csr.flags = s.csr.flags := rfl
@[simp] theorem State.withCounts_csr_seedLo : (s.withCounts n0 n1 n2).csr.seedLo = s.csr.seedLo := rfl
@[simp] theorem State.withCounts_csr_seedHi : (s.withCounts n0 n1 n2).csr.seedHi = s.csr.seedHi := rfl
@[simp] theorem State.withCounts_csr_quotaLo : (s.withCounts n0 n1 n2).csr.quotaLo = s.csr.quotaLo := rfl
@[simp] theorem State.withCounts_csr_quotaHi : (s.withCounts n0 n1 n2).csr.quotaHi = s.csr.quotaHi := rfl
@[simp] theorem State.withCounts_csr_archLen : (s.withCounts n0 n1 n2).csr.archLen = s.csr.archLen := rfl
@[simp] theorem State.withCounts_csr_arcFlags : (s.withCounts n0 n1 n2).csr.arcFlags = s.csr.arcFlags := rfl
@[simp] theorem State.withCounts_csr_treePtr : (s.withCounts n0 n1 n2).csr.treePtr = s.csr.treePtr := rfl

end

section
variable (s : State) (w r : Bool)

@[simp] theorem State.withArcState_inq : (s.withArcState w r).inq = s.inq := rfl
@[simp] theorem State.withArcState_outq : (s.withArcState w r).outq = s.outq := rfl
@[simp] theorem State.withArcState_arch : (s.withArcState w r).arch = s.arch := rfl
@[simp] theorem State.withArcState_bb : (s.withArcState w r).bb = s.bb := rfl
@[simp] theorem State.withArcState_symtab : (s.withArcState w r).symtab = s.symtab := rfl
@[simp] theorem State.withArcState_port : (s.withArcState w r).port = s.port := rfl
@[simp] theorem State.withArcState_hostq : (s.withArcState w r).hostq = s.hostq := rfl
@[simp] theorem State.withArcState_retired : (s.withArcState w r).retired = s.retired := rfl
@[simp] theorem State.withArcState_choice : (s.withArcState w r).choice = s.choice := rfl
@[simp] theorem State.withArcState_csr_status : (s.withArcState w r).csr.status = statusPutArcR r (statusPutArcW w s.csr.status) := rfl
@[simp] theorem State.withArcState_csr_res0 : (s.withArcState w r).csr.res0 = s.csr.res0 := rfl
@[simp] theorem State.withArcState_csr_res1 : (s.withArcState w r).csr.res1 = s.csr.res1 := rfl
@[simp] theorem State.withArcState_csr_res2 : (s.withArcState w r).csr.res2 = s.csr.res2 := rfl
@[simp] theorem State.withArcState_csr_res3 : (s.withArcState w r).csr.res3 = s.csr.res3 := rfl
@[simp] theorem State.withArcState_csr_arg0 : (s.withArcState w r).csr.arg0 = s.csr.arg0 := rfl
@[simp] theorem State.withArcState_csr_arg1 : (s.withArcState w r).csr.arg1 = s.csr.arg1 := rfl
@[simp] theorem State.withArcState_csr_arg2 : (s.withArcState w r).csr.arg2 = s.csr.arg2 := rfl
@[simp] theorem State.withArcState_csr_arg3 : (s.withArcState w r).csr.arg3 = s.csr.arg3 := rfl
@[simp] theorem State.withArcState_csr_hufBlockSize : (s.withArcState w r).csr.hufBlockSize = s.csr.hufBlockSize := rfl
@[simp] theorem State.withArcState_csr_hufMaxCodeLen : (s.withArcState w r).csr.hufMaxCodeLen = s.csr.hufMaxCodeLen := rfl
@[simp] theorem State.withArcState_csr_lzWindow : (s.withArcState w r).csr.lzWindow = s.csr.lzWindow := rfl
@[simp] theorem State.withArcState_csr_lzMaxMatch : (s.withArcState w r).csr.lzMaxMatch = s.csr.lzMaxMatch := rfl
@[simp] theorem State.withArcState_csr_flags : (s.withArcState w r).csr.flags = s.csr.flags := rfl
@[simp] theorem State.withArcState_csr_seedLo : (s.withArcState w r).csr.seedLo = s.csr.seedLo := rfl
@[simp] theorem State.withArcState_csr_seedHi : (s.withArcState w r).csr.seedHi = s.csr.seedHi := rfl
@[simp] theorem State.withArcState_csr_quotaLo : (s.withArcState w r).csr.quotaLo = s.csr.quotaLo := rfl
@[simp] theorem State.withArcState_csr_quotaHi : (s.withArcState w r).csr.quotaHi = s.csr.quotaHi := rfl
@[simp] theorem State.withArcState_csr_archLen : (s.withArcState w r).csr.archLen = s.csr.archLen := rfl
@[simp] theorem State.withArcState_csr_arcFlags : (s.withArcState w r).csr.arcFlags = s.csr.arcFlags := rfl
@[simp] theorem State.withArcState_csr_treePtr : (s.withArcState w r).csr.treePtr = s.csr.treePtr := rfl

end

section
variable (s : State) (w : QuotaWrite)

@[simp] theorem State.afterQuotaWrite_inq : (s.afterQuotaWrite w).inq = s.inq := rfl
@[simp] theorem State.afterQuotaWrite_outq : (s.afterQuotaWrite w).outq = s.outq ++ w.out := rfl
@[simp] theorem State.afterQuotaWrite_arch : (s.afterQuotaWrite w).arch = s.arch := rfl
@[simp] theorem State.afterQuotaWrite_bb : (s.afterQuotaWrite w).bb = s.bb := rfl
@[simp] theorem State.afterQuotaWrite_symtab : (s.afterQuotaWrite w).symtab = s.symtab := rfl
@[simp] theorem State.afterQuotaWrite_port : (s.afterQuotaWrite w).port = s.port := rfl
@[simp] theorem State.afterQuotaWrite_hostq : (s.afterQuotaWrite w).hostq = s.hostq := rfl
@[simp] theorem State.afterQuotaWrite_retired : (s.afterQuotaWrite w).retired = s.retired := rfl
@[simp] theorem State.afterQuotaWrite_choice : (s.afterQuotaWrite w).choice = s.choice := rfl
@[simp] theorem State.afterQuotaWrite_csr_status : (s.afterQuotaWrite w).csr.status = (if w.suppressed then statusPutQexh true s.csr.status else s.csr.status) := rfl
@[simp] theorem State.afterQuotaWrite_csr_res0 : (s.afterQuotaWrite w).csr.res0 = s.csr.res0 := rfl
@[simp] theorem State.afterQuotaWrite_csr_res1 : (s.afterQuotaWrite w).csr.res1 = s.csr.res1 := rfl
@[simp] theorem State.afterQuotaWrite_csr_res2 : (s.afterQuotaWrite w).csr.res2 = s.csr.res2 := rfl
@[simp] theorem State.afterQuotaWrite_csr_res3 : (s.afterQuotaWrite w).csr.res3 = s.csr.res3 := rfl
@[simp] theorem State.afterQuotaWrite_csr_arg0 : (s.afterQuotaWrite w).csr.arg0 = s.csr.arg0 := rfl
@[simp] theorem State.afterQuotaWrite_csr_arg1 : (s.afterQuotaWrite w).csr.arg1 = s.csr.arg1 := rfl
@[simp] theorem State.afterQuotaWrite_csr_arg2 : (s.afterQuotaWrite w).csr.arg2 = s.csr.arg2 := rfl
@[simp] theorem State.afterQuotaWrite_csr_arg3 : (s.afterQuotaWrite w).csr.arg3 = s.csr.arg3 := rfl
@[simp] theorem State.afterQuotaWrite_csr_hufBlockSize : (s.afterQuotaWrite w).csr.hufBlockSize = s.csr.hufBlockSize := rfl
@[simp] theorem State.afterQuotaWrite_csr_hufMaxCodeLen : (s.afterQuotaWrite w).csr.hufMaxCodeLen = s.csr.hufMaxCodeLen := rfl
@[simp] theorem State.afterQuotaWrite_csr_lzWindow : (s.afterQuotaWrite w).csr.lzWindow = s.csr.lzWindow := rfl
@[simp] theorem State.afterQuotaWrite_csr_lzMaxMatch : (s.afterQuotaWrite w).csr.lzMaxMatch = s.csr.lzMaxMatch := rfl
@[simp] theorem State.afterQuotaWrite_csr_flags : (s.afterQuotaWrite w).csr.flags = s.csr.flags := rfl
@[simp] theorem State.afterQuotaWrite_csr_seedLo : (s.afterQuotaWrite w).csr.seedLo = s.csr.seedLo := rfl
@[simp] theorem State.afterQuotaWrite_csr_seedHi : (s.afterQuotaWrite w).csr.seedHi = s.csr.seedHi := rfl
@[simp] theorem State.afterQuotaWrite_csr_quotaLo : (s.afterQuotaWrite w).csr.quotaLo = lowWord w.quota := rfl
@[simp] theorem State.afterQuotaWrite_csr_quotaHi : (s.afterQuotaWrite w).csr.quotaHi = highWord w.quota := rfl
@[simp] theorem State.afterQuotaWrite_csr_archLen : (s.afterQuotaWrite w).csr.archLen = s.csr.archLen := rfl
@[simp] theorem State.afterQuotaWrite_csr_arcFlags : (s.afterQuotaWrite w).csr.arcFlags = s.csr.arcFlags := rfl
@[simp] theorem State.afterQuotaWrite_csr_treePtr : (s.afterQuotaWrite w).csr.treePtr = s.csr.treePtr := rfl

end

section
variable (s : State) (t : Option Symtab)

@[simp] theorem State.withLastTable_csr : (s.withLastTable t).csr = s.csr := by cases t <;> rfl
@[simp] theorem State.withLastTable_inq : (s.withLastTable t).inq = s.inq := by cases t <;> rfl
@[simp] theorem State.withLastTable_outq : (s.withLastTable t).outq = s.outq := by cases t <;> rfl
@[simp] theorem State.withLastTable_arch : (s.withLastTable t).arch = s.arch := by cases t <;> rfl
@[simp] theorem State.withLastTable_bb : (s.withLastTable t).bb = s.bb := by cases t <;> rfl
@[simp] theorem State.withLastTable_port : (s.withLastTable t).port = s.port := by cases t <;> rfl
@[simp] theorem State.withLastTable_hostq : (s.withLastTable t).hostq = s.hostq := by cases t <;> rfl
@[simp] theorem State.withLastTable_retired : (s.withLastTable t).retired = s.retired := by cases t <;> rfl
@[simp] theorem State.withLastTable_choice : (s.withLastTable t).choice = s.choice := by cases t <;> rfl
@[simp] theorem State.withLastTable_symtab : (s.withLastTable t).symtab = t.getD s.symtab := by cases t <;> rfl

end

section
variable (s : State) (c : FaultCode)

@[simp] theorem State.raise_inq : (s.raise c).inq = s.inq := by unfold State.raise; split <;> rfl
@[simp] theorem State.raise_outq : (s.raise c).outq = s.outq := by unfold State.raise; split <;> rfl
@[simp] theorem State.raise_arch : (s.raise c).arch = s.arch := by unfold State.raise; split <;> rfl
@[simp] theorem State.raise_bb : (s.raise c).bb = s.bb := by unfold State.raise; split <;> rfl
@[simp] theorem State.raise_symtab : (s.raise c).symtab = s.symtab := by unfold State.raise; split <;> rfl
@[simp] theorem State.raise_port : (s.raise c).port = s.port := by unfold State.raise; split <;> rfl
@[simp] theorem State.raise_hostq : (s.raise c).hostq = s.hostq := by unfold State.raise; split <;> rfl
@[simp] theorem State.raise_retired : (s.raise c).retired = s.retired := by unfold State.raise; split <;> rfl
@[simp] theorem State.raise_choice : (s.raise c).choice = s.choice := by unfold State.raise; split <;> rfl
@[simp] theorem State.raise_csr_res0 : (s.raise c).csr.res0 = s.csr.res0 := by unfold State.raise; split <;> rfl
@[simp] theorem State.raise_csr_res1 : (s.raise c).csr.res1 = s.csr.res1 := by unfold State.raise; split <;> rfl
@[simp] theorem State.raise_csr_res2 : (s.raise c).csr.res2 = s.csr.res2 := by unfold State.raise; split <;> rfl
@[simp] theorem State.raise_csr_res3 : (s.raise c).csr.res3 = s.csr.res3 := by unfold State.raise; split <;> rfl
@[simp] theorem State.raise_csr_arg0 : (s.raise c).csr.arg0 = s.csr.arg0 := by unfold State.raise; split <;> rfl
@[simp] theorem State.raise_csr_arg1 : (s.raise c).csr.arg1 = s.csr.arg1 := by unfold State.raise; split <;> rfl
@[simp] theorem State.raise_csr_arg2 : (s.raise c).csr.arg2 = s.csr.arg2 := by unfold State.raise; split <;> rfl
@[simp] theorem State.raise_csr_arg3 : (s.raise c).csr.arg3 = s.csr.arg3 := by unfold State.raise; split <;> rfl
@[simp] theorem State.raise_csr_hufBlockSize : (s.raise c).csr.hufBlockSize = s.csr.hufBlockSize := by unfold State.raise; split <;> rfl
@[simp] theorem State.raise_csr_hufMaxCodeLen : (s.raise c).csr.hufMaxCodeLen = s.csr.hufMaxCodeLen := by unfold State.raise; split <;> rfl
@[simp] theorem State.raise_csr_lzWindow : (s.raise c).csr.lzWindow = s.csr.lzWindow := by unfold State.raise; split <;> rfl
@[simp] theorem State.raise_csr_lzMaxMatch : (s.raise c).csr.lzMaxMatch = s.csr.lzMaxMatch := by unfold State.raise; split <;> rfl
@[simp] theorem State.raise_csr_flags : (s.raise c).csr.flags = s.csr.flags := by unfold State.raise; split <;> rfl
@[simp] theorem State.raise_csr_seedLo : (s.raise c).csr.seedLo = s.csr.seedLo := by unfold State.raise; split <;> rfl
@[simp] theorem State.raise_csr_seedHi : (s.raise c).csr.seedHi = s.csr.seedHi := by unfold State.raise; split <;> rfl
@[simp] theorem State.raise_csr_quotaLo : (s.raise c).csr.quotaLo = s.csr.quotaLo := by unfold State.raise; split <;> rfl
@[simp] theorem State.raise_csr_quotaHi : (s.raise c).csr.quotaHi = s.csr.quotaHi := by unfold State.raise; split <;> rfl
@[simp] theorem State.raise_csr_archLen : (s.raise c).csr.archLen = s.csr.archLen := by unfold State.raise; split <;> rfl
@[simp] theorem State.raise_csr_arcFlags : (s.raise c).csr.arcFlags = s.csr.arcFlags := by unfold State.raise; split <;> rfl
@[simp] theorem State.raise_csr_treePtr : (s.raise c).csr.treePtr = s.csr.treePtr := by unfold State.raise; split <;> rfl

/-- R390: STATUS after a fault is raised. -/
theorem State.raise_csr_status :
    (s.raise c).csr.status = if s.faulted then s.csr.status else statusPutFault c.code s.csr.status := by
  unfold State.raise; split <;> rfl

theorem State.raise_of_faulted (h : s.faulted = true) : s.raise c = s := by simp [State.raise, h]

theorem State.raise_of_clean (h : s.faulted = false) :
    s.raise c = s.withStatus (statusPutFault c.code s.csr.status) := by simp [State.raise, h]

end

end Sys2Proof.Machine
end

