-- ==== Sys2Proof/Laws/Flags.lean ====
section
/-! SUPPORT. What writing a field of STATUS does to every field of it (spec/10_state.md R23). -/

namespace Sys2Proof.Machine

open Sys2Proof

/-- Writing one bit changes that bit alone. -/
theorem statusPut_getLsbD (k j : Nat) (b : Bool) (st : Word) (hk : k < 32) :
    (statusPut k b st).getLsbD j = if j = k then b else st.getLsbD j := by
  unfold statusPut
  by_cases hj : j = k
  · subst hj
    cases b
    · simp [hk]
    · simp [hk]
  · have one : (1#32 <<< k).getLsbD j = false := by
      simp only [BitVec.getLsbD_shiftLeft, BitVec.getLsbD_one]
      by_cases h : j < k
      · simp [h]
      · have : j - k ≠ 0 := by omega
        simp [this]
    cases b
    · simp only [Bool.false_eq_true, if_false, BitVec.getLsbD_and, BitVec.getLsbD_not, one, hj]
      by_cases h32 : j < 32
      · simp [h32]
      · simp [h32, BitVec.getLsbD_of_ge st j (by omega)]
    · simp only [if_true, BitVec.getLsbD_or, one, hj, if_false, Bool.or_false]

/-- Fault entry writes bit 0 and bits 15:8 alone (R390). -/
theorem statusPutFault_getLsbD (c : Byte) (st : Word) (j : Nat) :
    (statusPutFault c st).getLsbD j =
      if j = 0 then true else if 8 ≤ j ∧ j < 16 then c.getLsbD (j - 8) else st.getLsbD j := by
  by_cases h32 : j < 32
  · unfold statusPutFault
    simp only [BitVec.getLsbD_or, BitVec.getLsbD_and, BitVec.getLsbD_not, BitVec.getLsbD_shiftLeft,
      BitVec.getLsbD_setWidth, BitVec.getLsbD_one]
    interval_cases j <;> simp
  · have h16 : ¬(8 ≤ j ∧ j < 16) := by omega
    have h0 : j ≠ 0 := by omega
    simp [h0, h16, BitVec.getLsbD_of_ge _ j (by omega : 32 ≤ j)]

/-- Two words with the same bits are the same FAULT_CODE. -/
theorem statusFaultCode_congr {a b : Word} (h : ∀ j, 8 ≤ j → j < 16 → a.getLsbD j = b.getLsbD j) :
    statusFaultCode a = statusFaultCode b := by
  apply BitVec.eq_of_getLsbD_eq
  intro i hi
  simp only [statusFaultCode, BitVec.getLsbD_extractLsb', hi, decide_true, Bool.true_and]
  exact h (8 + i) (by omega) (by omega)

section
variable (b : Bool) (c : Byte) (st : Word)

@[simp] theorem statusFault_putQexh : statusFault (statusPutQexh b st) = statusFault st :=
  statusPut_getLsbD _ _ _ _ (by decide)
@[simp] theorem statusQexh_putQexh : statusQexh (statusPutQexh b st) = b :=
  statusPut_getLsbD _ _ _ _ (by decide)
@[simp] theorem statusArcW_putQexh : statusArcW (statusPutQexh b st) = statusArcW st :=
  statusPut_getLsbD _ _ _ _ (by decide)
@[simp] theorem statusArcR_putQexh : statusArcR (statusPutQexh b st) = statusArcR st :=
  statusPut_getLsbD _ _ _ _ (by decide)
@[simp] theorem statusFaultCode_putQexh : statusFaultCode (statusPutQexh b st) = statusFaultCode st :=
  statusFaultCode_congr fun j h _ => by
    rw [statusPutQexh, statusPut_getLsbD _ _ _ _ (by omega), if_neg (by omega)]

@[simp] theorem statusFault_putArcW : statusFault (statusPutArcW b st) = statusFault st :=
  statusPut_getLsbD _ _ _ _ (by decide)
@[simp] theorem statusQexh_putArcW : statusQexh (statusPutArcW b st) = statusQexh st :=
  statusPut_getLsbD _ _ _ _ (by decide)
@[simp] theorem statusArcW_putArcW : statusArcW (statusPutArcW b st) = b :=
  statusPut_getLsbD _ _ _ _ (by decide)
@[simp] theorem statusArcR_putArcW : statusArcR (statusPutArcW b st) = statusArcR st :=
  statusPut_getLsbD _ _ _ _ (by decide)
@[simp] theorem statusFaultCode_putArcW : statusFaultCode (statusPutArcW b st) = statusFaultCode st :=
  statusFaultCode_congr fun j h _ => by
    rw [statusPutArcW, statusPut_getLsbD _ _ _ _ (by omega), if_neg (by omega)]

@[simp] theorem statusFault_putArcR : statusFault (statusPutArcR b st) = statusFault st :=
  statusPut_getLsbD _ _ _ _ (by decide)
@[simp] theorem statusQexh_putArcR : statusQexh (statusPutArcR b st) = statusQexh st :=
  statusPut_getLsbD _ _ _ _ (by decide)
@[simp] theorem statusArcW_putArcR : statusArcW (statusPutArcR b st) = statusArcW st :=
  statusPut_getLsbD _ _ _ _ (by decide)
@[simp] theorem statusArcR_putArcR : statusArcR (statusPutArcR b st) = b :=
  statusPut_getLsbD _ _ _ _ (by decide)
@[simp] theorem statusFaultCode_putArcR : statusFaultCode (statusPutArcR b st) = statusFaultCode st :=
  statusFaultCode_congr fun j h _ => by
    rw [statusPutArcR, statusPut_getLsbD _ _ _ _ (by omega), if_neg (by omega)]

@[simp] theorem statusFault_putFault : statusFault (statusPutFault c st) = true :=
  statusPutFault_getLsbD _ _ _
@[simp] theorem statusQexh_putFault : statusQexh (statusPutFault c st) = statusQexh st :=
  statusPutFault_getLsbD _ _ _
@[simp] theorem statusArcW_putFault : statusArcW (statusPutFault c st) = statusArcW st :=
  statusPutFault_getLsbD _ _ _
@[simp] theorem statusArcR_putFault : statusArcR (statusPutFault c st) = statusArcR st :=
  statusPutFault_getLsbD _ _ _
@[simp] theorem statusFaultCode_putFault : statusFaultCode (statusPutFault c st) = c := by
  apply BitVec.eq_of_getLsbD_eq
  intro i hi
  simp only [statusFaultCode, BitVec.getLsbD_extractLsb', statusPutFault_getLsbD, hi, decide_true, Bool.true_and]
  rw [if_neg (by omega), if_pos (by omega)]
  congr 1
  omega

end

/-- The reserved bits of STATUS are those that are 0 under the mask (R23). -/
theorem reserved_congr {a b : Word}
    (h : ∀ j, ((4 ≤ j ∧ j < 8) ∨ (16 ≤ j ∧ j < 32)) → a.getLsbD j = b.getLsbD j) :
    a &&& 0xFFFF00F0#32 = b &&& 0xFFFF00F0#32 := by
  apply BitVec.eq_of_getLsbD_eq
  intro i hi
  simp only [BitVec.getLsbD_and]
  by_cases hr : (4 ≤ i ∧ i < 8) ∨ (16 ≤ i ∧ i < 32)
  · rw [h i hr]
  · have : (0xFFFF00F0#32).getLsbD i = false := by
      interval_cases i <;> first | rfl | omega
    simp [this]

@[simp] theorem reserved_putQexh (b : Bool) (st : Word) :
    statusPutQexh b st &&& 0xFFFF00F0#32 = st &&& 0xFFFF00F0#32 :=
  reserved_congr fun j h => by rw [statusPutQexh, statusPut_getLsbD _ _ _ _ (by omega), if_neg (by omega)]
@[simp] theorem reserved_putArcW (b : Bool) (st : Word) :
    statusPutArcW b st &&& 0xFFFF00F0#32 = st &&& 0xFFFF00F0#32 :=
  reserved_congr fun j h => by rw [statusPutArcW, statusPut_getLsbD _ _ _ _ (by omega), if_neg (by omega)]
@[simp] theorem reserved_putArcR (b : Bool) (st : Word) :
    statusPutArcR b st &&& 0xFFFF00F0#32 = st &&& 0xFFFF00F0#32 :=
  reserved_congr fun j h => by rw [statusPutArcR, statusPut_getLsbD _ _ _ _ (by omega), if_neg (by omega)]
@[simp] theorem reserved_putFault (c : Byte) (st : Word) :
    statusPutFault c st &&& 0xFFFF00F0#32 = st &&& 0xFFFF00F0#32 :=
  reserved_congr fun j h => by rw [statusPutFault_getLsbD, if_neg (by omega), if_neg (by omega)]

/-- No fault has code 0, which means that there is none (R391). -/
theorem FaultCode.code_ne_zero (c : FaultCode) : c.code ≠ 0 := by cases c <;> decide

@[simp] theorem State.raise_faulted (s : State) (c : FaultCode) : (s.raise c).faulted = true := by
  unfold State.raise
  split
  · assumption
  · simp [State.faulted]

end Sys2Proof.Machine
end

