-- ==== Sys2Proof/Laws/Memory.lean ====
section
/-! SUPPORT. ARCH_MEM: a read after a write, the canonical form, and the address space (spec/20_memory.md R60, R61). -/

namespace Sys2Proof.Machine

open Sys2Proof

/-! ### One byte -/

@[simp] theorem Mem.read_nil (a : Nat) : Mem.read [] a = none := rfl

theorem Mem.read_cons (a : Nat) (b : Byte) (m : Mem) (x : Nat) :
    Mem.read ((a, b) :: m) x = if a = x then some b else if x < a then none else Mem.read m x := rfl

theorem Mem.write_cons (a : Nat) (b : Byte) (m : Mem) (x : Nat) (v : Byte) :
    Mem.write x v ((a, b) :: m) =
      if a = x then (x, v) :: m else if x < a then (x, v) :: (a, b) :: m else (a, b) :: Mem.write x v m := rfl

/-- A write stores its byte. -/
theorem Mem.read_write_same (x : Nat) (v : Byte) (m : Mem) : Mem.read (Mem.write x v m) x = some v := by
  induction m with
  | nil => simp [Mem.write, Mem.read_cons]
  | cons c m ih =>
    obtain ⟨a, b⟩ := c
    rw [Mem.write_cons]
    split_ifs with h h'
    · simp [Mem.read_cons]
    · simp [Mem.read_cons]
    · simp [Mem.read_cons, h, h', ih]

/-- A write leaves every other byte alone. -/
theorem Mem.read_write_other {x y : Nat} (v : Byte) (m : Mem) (h : y ≠ x) :
    Mem.read (Mem.write x v m) y = Mem.read m y := by
  induction m with
  | nil => simp [Mem.write, Mem.read_cons, h.symm]
  | cons c m ih =>
    obtain ⟨a, b⟩ := c
    rw [Mem.write_cons]
    split_ifs with h1 h2
    · subst h1; simp [Mem.read_cons, h.symm]
    · by_cases hlt : y < x
      · simp [Mem.read_cons, h.symm, hlt, show a ≠ y by omega, show y < a by omega]
      · simp [Mem.read_cons, h.symm, hlt]
    · simp [Mem.read_cons, ih]

/-- Every byte after a write. -/
theorem Mem.read_write (x y : Nat) (v : Byte) (m : Mem) :
    Mem.read (Mem.write x v m) y = if y = x then some v else Mem.read m y := by
  split_ifs with h
  · subst h; exact Mem.read_write_same y v m
  · exact Mem.read_write_other v m h

/-! ### Several bytes -/

/-- Every byte after a write of consecutive bytes. -/
theorem Mem.read_writeBytes (bs : List Byte) : ∀ (x : Nat) (m : Mem) (y : Nat),
    Mem.read (Mem.writeBytes x bs m) y =
      if x ≤ y ∧ y < x + bs.length then bs[y - x]? else Mem.read m y := by
  induction bs with
  | nil => intro x m y; simp [Mem.writeBytes]
  | cons b bs ih =>
    intro x m y
    rw [Mem.writeBytes, ih, Mem.read_write, List.length_cons]
    by_cases hin : x + 1 ≤ y ∧ y < x + 1 + bs.length
    · rw [if_pos hin, if_pos (by omega), show y - x = (y - (x + 1)) + 1 by omega, List.getElem?_cons_succ]
    · rw [if_neg hin]
      by_cases hx : y = x
      · subst hx; simp
      · rw [if_neg hx, if_neg (by omega)]

/-- A byte outside the written range is as before. -/
theorem Mem.read_writeBytes_outside {x y : Nat} (bs : List Byte) (m : Mem) (h : y < x ∨ x + bs.length ≤ y) :
    Mem.read (Mem.writeBytes x bs m) y = Mem.read m y := by
  rw [Mem.read_writeBytes, if_neg (by omega)]

theorem Mem.readBytes_zero (m : Mem) (x : Nat) : Mem.readBytes m x 0 = some [] := rfl

/-- What a read of several bytes answers. -/
theorem Mem.readBytes_eq_some {m : Mem} : ∀ {n x : Nat} {bs : List Byte},
    Mem.readBytes m x n = some bs ↔ bs.length = n ∧ ∀ k, k < n → Mem.read m (x + k) = bs[k]? := by
  intro n
  induction n with
  | zero =>
    intro x bs
    rw [Mem.readBytes_zero]
    constructor
    · intro h
      have := Option.some.inj h
      subst this
      exact ⟨rfl, fun k hk => absurd hk (by omega)⟩
    · intro h
      rw [List.length_eq_zero_iff.mp h.1]
  | succ n ih =>
    intro x bs
    rw [Mem.readBytes]
    cases hr : Mem.read m x with
    | none =>
      simp only [reduceCtorEq, false_iff, not_and]
      intro hl h
      have h0 := h 0 (by omega)
      rw [Nat.add_zero, hr] at h0
      rw [eq_comm, List.getElem?_eq_none_iff] at h0
      omega
    | some b =>
      cases hrs : Mem.readBytes m (x + 1) n with
      | none =>
        simp only [reduceCtorEq, false_iff, not_and]
        intro hl h
        cases bs with
        | nil => simp at hl
        | cons c cs =>
          have : Mem.readBytes m (x + 1) n = some cs := by
            refine ih.mpr ⟨by simpa using hl, fun k hk => ?_⟩
            have := h (k + 1) (by omega)
            rwa [List.getElem?_cons_succ, ← Nat.add_assoc, Nat.add_right_comm] at this
          rw [hrs] at this
          exact absurd this (by simp)
      | some cs =>
        have hcs := ih.mp hrs
        constructor
        · intro h
          have := Option.some.inj h
          subst this
          refine ⟨by simp [hcs.1], fun k hk => ?_⟩
          cases k with
          | zero => simpa using hr
          | succ k =>
            rw [List.getElem?_cons_succ, ← hcs.2 k (by omega), Nat.add_right_comm x 1 k, Nat.add_assoc]
        · intro ⟨hl, h⟩
          cases bs with
          | nil => simp at hl
          | cons d ds =>
            have h0 := h 0 (by omega)
            simp only [Nat.add_zero, hr, List.getElem?_cons_zero, Option.some.injEq] at h0
            have : Mem.readBytes m (x + 1) n = some ds := by
              refine ih.mpr ⟨by simpa using hl, fun k hk => ?_⟩
              have := h (k + 1) (by omega)
              rwa [List.getElem?_cons_succ, ← Nat.add_assoc, Nat.add_right_comm] at this
            rw [hrs] at this
            rw [h0, Option.some.inj this]

/-- A read of several bytes has the length asked for. -/
theorem Mem.readBytes_length {m : Mem} {n x : Nat} {bs : List Byte} (h : Mem.readBytes m x n = some bs) :
    bs.length = n := (Mem.readBytes_eq_some.mp h).1

/-- A read of several bytes answers when each of them has been written. -/
theorem Mem.readBytes_isSome {m : Mem} : ∀ {n x : Nat},
    (∀ k, k < n → (Mem.read m (x + k)).isSome = true) → ∃ bs, Mem.readBytes m x n = some bs := by
  intro n
  induction n with
  | zero => intro x _; exact ⟨[], rfl⟩
  | succ n ih =>
    intro x h
    obtain ⟨cs, hcs⟩ := ih (x := x + 1) fun k hk => by
      have := h (k + 1) (by omega)
      rwa [← Nat.add_assoc, Nat.add_right_comm] at this
    obtain ⟨b, hb⟩ := Option.isSome_iff_exists.mp (h 0 (by omega))
    rw [Nat.add_zero] at hb
    exact ⟨b :: cs, by rw [Mem.readBytes, hb, hcs]⟩

/-- Two memories that agree on a range are read alike there. -/
theorem Mem.readBytes_congr {m m' : Mem} : ∀ {n x : Nat},
    (∀ k, k < n → Mem.read m (x + k) = Mem.read m' (x + k)) → Mem.readBytes m x n = Mem.readBytes m' x n := by
  intro n
  induction n with
  | zero => intro x _; rfl
  | succ n ih =>
    intro x h
    have h0 := h 0 (by omega)
    rw [Nat.add_zero] at h0
    have hs := ih (x := x + 1) fun k hk => by
      have := h (k + 1) (by omega)
      rwa [← Nat.add_assoc, Nat.add_right_comm] at this
    rw [Mem.readBytes, Mem.readBytes, h0, hs]

/-- What has just been written reads back. -/
theorem Mem.readBytes_writeBytes (x : Nat) (bs : List Byte) (m : Mem) :
    Mem.readBytes (Mem.writeBytes x bs m) x bs.length = some bs := by
  refine Mem.readBytes_eq_some.mpr ⟨rfl, fun k hk => ?_⟩
  rw [Mem.read_writeBytes, if_pos (by omega), Nat.add_sub_cancel_left]

/-! ### The canonical form -/

theorem Mem.wf_cons_cons (a a' : Nat) (b b' : Byte) (m : Mem) :
    Mem.wf ((a, b) :: (a', b') :: m) = (decide (a < a') && Mem.wf ((a', b') :: m)) := rfl

theorem Mem.wf_tail {c : Host.Cell} {m : Mem} (h : Mem.wf (c :: m) = true) : Mem.wf m = true := by
  cases m with
  | nil => rfl
  | cons c' m =>
    obtain ⟨a, b⟩ := c
    obtain ⟨a', b'⟩ := c'
    rw [Mem.wf_cons_cons, Bool.and_eq_true] at h
    exact h.2

/-- Whatever is written behind a smaller address, the head stays the smaller one. -/
theorem Mem.wf_cons_write {a : Nat} {b : Byte} {m : Mem} {x : Nat} (v : Byte)
    (h : Mem.wf ((a, b) :: m) = true) (hx : a < x) (hw : Mem.wf (Mem.write x v m) = true) :
    Mem.wf ((a, b) :: Mem.write x v m) = true := by
  cases m with
  | nil => simp [Mem.write, Mem.wf_cons_cons, hx, Mem.wf]
  | cons c m =>
    obtain ⟨a', b'⟩ := c
    rw [Mem.wf_cons_cons, Bool.and_eq_true, decide_eq_true_iff] at h
    rw [Mem.write_cons] at hw ⊢
    split_ifs at hw ⊢ <;> rw [Mem.wf_cons_cons, Bool.and_eq_true, decide_eq_true_iff]
    · exact ⟨hx, hw⟩
    · exact ⟨hx, hw⟩
    · exact ⟨h.1, hw⟩

/-- A write keeps the canonical form. -/
theorem Mem.wf_write (x : Nat) (v : Byte) (m : Mem) (h : Mem.wf m = true) : Mem.wf (Mem.write x v m) = true := by
  induction m with
  | nil => rfl
  | cons c m ih =>
    obtain ⟨a, b⟩ := c
    have hw := ih (Mem.wf_tail h)
    rw [Mem.write_cons]
    split_ifs with h1 h2
    · subst h1
      cases m with
      | nil => rfl
      | cons c' m =>
        obtain ⟨a', b'⟩ := c'
        rw [Mem.wf_cons_cons] at h ⊢
        exact h
    · rw [Mem.wf_cons_cons, Bool.and_eq_true]
      exact ⟨by simpa using h2, h⟩
    · exact Mem.wf_cons_write v h (by omega) hw

/-- A write of consecutive bytes keeps the canonical form. -/
theorem Mem.wf_writeBytes (bs : List Byte) : ∀ (x : Nat) (m : Mem), Mem.wf m = true →
    Mem.wf (Mem.writeBytes x bs m) = true := by
  induction bs with
  | nil => intro x m h; exact h
  | cons b bs ih => intro x m h; exact ih _ _ (Mem.wf_write x b m h)

/-! ### The address space -/

theorem Mem.within_write {size x : Nat} {m : Mem} (v : Byte) (hx : x < size) (h : Mem.within size m = true) :
    Mem.within size (Mem.write x v m) = true := by
  induction m with
  | nil => simp [Mem.write, Mem.within, hx]
  | cons c m ih =>
    obtain ⟨a, b⟩ := c
    have hc : ∀ (a : Nat) (b : Byte) (m : Mem),
        Mem.within size ((a, b) :: m) = true ↔ a < size ∧ Mem.within size m = true := by
      intro a b m; simp [Mem.within]
    rw [hc] at h
    rw [Mem.write_cons]
    split_ifs
    · exact (hc _ _ _).mpr ⟨hx, h.2⟩
    · exact (hc _ _ _).mpr ⟨hx, (hc _ _ _).mpr h⟩
    · exact (hc _ _ _).mpr ⟨h.1, ih h.2⟩

/-- A write of bytes that end inside the address space stays inside it (R61). -/
theorem Mem.within_writeBytes {size : Nat} (bs : List Byte) : ∀ (x : Nat) (m : Mem), x + bs.length ≤ size →
    Mem.within size m = true → Mem.within size (Mem.writeBytes x bs m) = true := by
  induction bs with
  | nil => intro x m _ h; exact h
  | cons b bs ih =>
    intro x m hx h
    rw [List.length_cons] at hx
    exact ih _ _ (by omega) (Mem.within_write b (by omega) h)

/-! ### The bytes R393 leaves open -/

/-- The list that `scribble` writes has the clipped length. -/
theorem scribble_length (p : Params) (n start len : Nat) :
    ((List.range (min (start + len) p.archSize - start)).map fun k => p.faultArch n (start + k)).length =
      min (start + len) p.archSize - start := by simp

theorem Mem.wf_scribble (p : Params) (n start len : Nat) (m : Mem) (h : Mem.wf m = true) :
    Mem.wf (scribble p n start len m) = true := Mem.wf_writeBytes _ _ _ h

theorem Mem.within_scribble (p : Params) (n start len : Nat) (m : Mem) (h : Mem.within p.archSize m = true) :
    Mem.within p.archSize (scribble p n start len m) = true := by
  unfold scribble
  by_cases hs : start ≤ p.archSize
  · exact Mem.within_writeBytes _ _ _ (by rw [scribble_length]; omega) h
  · rw [show min (start + len) p.archSize - start = 0 by omega]
    exact h

/-- A byte outside the write range is as before (R393). -/
theorem Mem.read_scribble_outside (p : Params) (n start len : Nat) (m : Mem) (a : Nat)
    (h : a < start ∨ start + len ≤ a) : Mem.read (scribble p n start len m) a = Mem.read m a := by
  unfold scribble
  rw [Mem.read_writeBytes_outside _ _ (by rw [scribble_length]; omega)]

/-- A byte that had a value still has one. -/
theorem Mem.scribble_isSome (p : Params) (n start len : Nat) (m : Mem) (a : Nat)
    (h : (Mem.read m a).isSome = true) : (Mem.read (scribble p n start len m) a).isSome = true := by
  unfold scribble
  rw [Mem.read_writeBytes]
  split_ifs with hin
  · rw [List.getElem?_eq_getElem (by omega)]; rfl
  · exact h

/-- A byte outside every range is as before, whatever ranges are left open (R393). -/
theorem Mem.read_scribbles_outside (p : Params) (n a : Nat) : ∀ (rs : List (Nat × Nat)) (m : Mem),
    (∀ r ∈ rs, a < r.1 ∨ r.1 + r.2 ≤ a) →
    Mem.read (rs.foldl (fun m r => scribble p n r.1 r.2 m) m) a = Mem.read m a
  | [], _, _ => rfl
  | r :: rs, m, h => by
    rw [List.foldl_cons, Mem.read_scribbles_outside p n a rs _ fun x hx => h x (List.mem_cons_of_mem r hx),
      Mem.read_scribble_outside p n _ _ m a (h r List.mem_cons_self)]

/-- Leaving ranges open keeps the canonical form, the address space and every byte's having a value. -/
theorem Mem.scribbles_sound (p : Params) (n : Nat) : ∀ (rs : List (Nat × Nat)) (m : Mem), Mem.wf m = true →
    Mem.within p.archSize m = true →
    Mem.wf (rs.foldl (fun m r => scribble p n r.1 r.2 m) m) = true ∧
      Mem.within p.archSize (rs.foldl (fun m r => scribble p n r.1 r.2 m) m) = true ∧
      ∀ a, (Mem.read m a).isSome = true →
        (Mem.read (rs.foldl (fun m r => scribble p n r.1 r.2 m) m) a).isSome = true
  | [], _, hw, hi => ⟨hw, hi, fun _ h => h⟩
  | r :: rs, m, hw, hi => by
    obtain ⟨h1, h2, h3⟩ := Mem.scribbles_sound p n rs (scribble p n r.1 r.2 m) (Mem.wf_scribble p n _ _ m hw)
      (Mem.within_scribble p n _ _ m hi)
    exact ⟨h1, h2, fun a h => h3 a (Mem.scribble_isSome p n _ _ m a h)⟩

end Sys2Proof.Machine
end

