-- ==== Sys2Proof/Laws/Ops.lean ====
section
/-! SUPPORT. For each shared operation, once, everything it can do. -/

namespace Sys2Proof.Machine

open Sys2Proof

/-- The open sizes of this hardware lie in the ranges of R8. -/
theorem hw_valid : Params.hw.Valid where
  bbCapacity_pos := Nat.le_add_left 1 _
  bbCapacity_le := Config.bbCapacityPred.isLt
  archSize_ge := Nat.le_add_left 9 _
  archSize_lt := by
    have := Config.archSizeOverNine.isLt
    change Config.archSizeOverNine.val + 9 < 2 ^ 32
    omega

/-! ### Completing, faulting, starting -/

@[simp] theorem complete_eq (s : State) : complete s = .next s.retire := rfl

@[simp] theorem faultNoEffect_eq (c : FaultCode) (s : State) : faultNoEffect c s = .next (s.raise c).retire := rfl

@[simp] theorem faultAfterInput_eq (p : Params) (c : FaultCode) (rs : List (Nat × Nat)) (s : State) :
    faultAfterInput p c rs s = .next ((s.raise c).unspecify p rs).retire := rfl

@[simp] theorem streamExhausted_eq (rest : List Token) (s : State) :
    streamExhausted rest s = .next ((((s.withInq rest).withRes0 0).withRes1 0).withRes2 1).retire := rfl

/-- A held command finds STATUS.FAULT = 0 (R394). -/
theorem faulted_of_held {p : Params} {i : Instr} {s : State} (h : held p i s = true) : s.faulted = false := by
  unfold held at h
  cases hf : s.faulted
  · rfl
  · simp [hf] at h

/-- While STATUS.FAULT = 1 a command other than RESET and CSR_RD completes with no effect (R394). -/
theorem start_ignored {p : Params} {i : Instr} {s : State} (body : State → Result) (hf : s.faulted = true)
    (hr : runsWhileFaulted i = false) : start p i s body = .next s.retire := by
  simp [start, hf, hr]

/-- A held command changes nothing (R77). -/
theorem start_held {p : Params} {i : Instr} {s : State} (body : State → Result) (h : held p i s = true) :
    start p i s body = .next s := by
  simp [start, h, faulted_of_held h]

/-- A command that may run and has its input runs. -/
theorem start_runs {p : Params} {i : Instr} {s : State} (body : State → Result)
    (hr : s.faulted = false ∨ runsWhileFaulted i = true) (hh : held p i s = false) :
    start p i s body = body s := by
  rcases hr with h | h <;> simp [start, h, hh]

/-- With STATUS.FAULT = 0 and the input present, a command runs. -/
theorem start_ready {p : Params} {i : Instr} {s : State} (body : State → Result) (hf : s.faulted = false)
    (hi : inputReady p i s = true) : start p i s body = body s :=
  start_runs body (.inl hf) (by simp [held, hi])

/-- A command without a wait, with STATUS.FAULT = 0, runs. -/
theorem held_of_ready {p : Params} {i : Instr} {s : State} (hi : inputReady p i s = true) : held p i s = false := by
  simp [held, hi]

/-- All that starting a command can do. -/
theorem start_cases {p : Params} {i : Instr} {s t : State} {body : State → Result}
    (h : start p i s body = .next t) :
    (s.faulted = true ∧ runsWhileFaulted i = false ∧ t = s.retire) ∨
      (held p i s = true ∧ t = s) ∨
      ((s.faulted = false ∨ runsWhileFaulted i = true) ∧ held p i s = false ∧ body s = .next t) := by
  unfold start at h
  split at h
  · rename_i hc
    simp only [Bool.and_eq_true, Bool.not_eq_true'] at hc
    simp only [complete_eq, Host.Outcome.next.injEq] at h
    exact .inl ⟨hc.1, hc.2, h.symm⟩
  · rename_i hc
    split at h
    · rename_i hh
      simp only [Host.Outcome.next.injEq] at h
      exact .inr (.inl ⟨hh, h.symm⟩)
    · rename_i hh
      refine .inr (.inr ⟨?_, by simpa using hh, h⟩)
      cases hf : s.faulted
      · exact .inl rfl
      · simpa [hf] using hc

/-! ### Faults -/

/-- The first fault is recorded (R390). -/
theorem raise_of_clean {s : State} (c : FaultCode) (h : s.faulted = false) :
    s.raise c = s.withStatus (statusPutFault c.code s.csr.status) := by
  simp [State.raise, h]

/-- A later fault changes nothing (R390). -/
theorem raise_of_faulted {s : State} (c : FaultCode) (h : s.faulted = true) : s.raise c = s := by
  simp [State.raise, h]

/-- All that the entry into a fault with open effects does (R390, R393). -/
theorem faultsOpen_unspecify (p : Params) (i : Instr) (c : FaultCode) {s : State} (h : s.faulted = false) :
    FaultsOpen p i c s ((s.raise c).unspecify p (s.writeRanges p i)).retire := by
  rw [raise_of_clean c h]
  exact ⟨⟨p.faultOut s.choice, rfl⟩,
    ⟨min (p.faultTake s.choice) (streamTokens s.inq), Nat.min_le_right _ _, rfl⟩,
    fun a ha => Mem.read_scribbles_outside p s.choice a _ s.arch ha, rfl⟩

/-- All that the entry into a fault with no other effect does (R390, R392). -/
theorem faultsWith_raise (c : FaultCode) {s : State} (h : s.faulted = false) :
    FaultsWith c s (s.raise c).retire := by
  rw [raise_of_clean c h]
  rfl

/-! ### Reading ARCH_MEM -/

/-- What `memRead` answers (R61). -/
theorem memRead_eq_ok {s : State} {a n : Nat} {bs : List Byte} :
    s.memRead a n = .ok bs ↔ a + n ≤ s.csr.archLen.toNat ∧ Mem.readBytes s.arch a n = some bs := by
  unfold State.memRead
  by_cases h : a + n ≤ s.csr.archLen.toNat
  · rw [if_pos h]
    cases Mem.readBytes s.arch a n <;> simp [h]
  · rw [if_neg h]
    simp [h]

/-- `memRead` answers below ARCH_LEN once every byte there has been written. -/
theorem memRead_ok {s : State} {a n : Nat} (hn : a + n ≤ s.csr.archLen.toNat)
    (hw : ∀ x, x < s.csr.archLen.toNat → (Mem.read s.arch x).isSome = true) :
    ∃ bs, s.memRead a n = .ok bs ∧ bs.length = n := by
  obtain ⟨bs, hbs⟩ := Mem.readBytes_isSome (m := s.arch) (n := n) (x := a) fun k hk => hw _ (by omega)
  exact ⟨bs, memRead_eq_ok.mpr ⟨hn, hbs⟩, Mem.readBytes_length hbs⟩

/-- Going on with bytes answers a next state only where the bytes were there. -/
theorem withBytes_eq_next {r : Except Fault (List Byte)} {use : List Byte → Result} {t : State} :
    withBytes r use = .next t ↔ ∃ bs, r = .ok bs ∧ use bs = .next t := by
  cases r <;> simp [withBytes]

@[simp] theorem withBytes_ok (bs : List Byte) (use : List Byte → Result) : withBytes (.ok bs) use = use bs := rfl

/-! ### Tokens -/

@[simp] theorem leadingBytes_byte (b : Byte) (ts : List Token) :
    leadingBytes (.byte b :: ts) = b :: leadingBytes ts := rfl
@[simp] theorem leadingBytes_eos (ts : List Token) : leadingBytes (.eos :: ts) = [] := rfl
@[simp] theorem afterEos_byte (b : Byte) (ts : List Token) : afterEos (.byte b :: ts) = afterEos ts := rfl
@[simp] theorem afterEos_eos (ts : List Token) : afterEos (.eos :: ts) = ts := rfl
@[simp] theorem hasEos_byte (b : Byte) (ts : List Token) : hasEos (.byte b :: ts) = hasEos ts := rfl
@[simp] theorem hasEos_eos (ts : List Token) : hasEos (.eos :: ts) = true := rfl
@[simp] theorem hasEos_nil : hasEos [] = false := rfl

/-- `hasEos` says that an EOS is there. -/
theorem hasEos_iff (ts : List Token) : hasEos ts = true ↔ Token.eos ∈ ts := by
  induction ts with
  | nil => simp
  | cons t ts ih => cases t <;> simp [ih]

/-- A delivered stream: its bytes, its EOS, and what follows (R38, R76). -/
theorem stream_split (bs : List Byte) (rest : List Token) :
    leadingBytes (bs.map Token.byte ++ Token.eos :: rest) = bs ∧
      afterEos (bs.map Token.byte ++ Token.eos :: rest) = rest ∧
      hasEos (bs.map Token.byte ++ Token.eos :: rest) = true := by
  induction bs with
  | nil => simp
  | cons b bs ih => simpa using ih

/-- IN with an EOS in it is a stream and what follows. -/
theorem eq_stream_of_hasEos : ∀ {ts : List Token}, hasEos ts = true →
    ts = (leadingBytes ts).map Token.byte ++ Token.eos :: afterEos ts
  | .eos :: _, _ => rfl
  | .byte b :: _, h => congrArg (Token.byte b :: ·) (eq_stream_of_hasEos h)

/-- `takeToEOS` removes the stream's tokens and its EOS. -/
theorem afterEos_eq_drop : ∀ (ts : List Token), afterEos ts = ts.drop (streamTokens ts)
  | [] => rfl
  | .eos :: _ => rfl
  | .byte _ :: ts => by
    rw [afterEos_byte, streamTokens, List.drop_succ_cons]
    exact afterEos_eq_drop ts

/-- No more bytes lead IN than the tokens up to the first EOS. -/
theorem leadingBytes_length_le : ∀ (ts : List Token), (leadingBytes ts).length ≤ streamTokens ts
  | [] => Nat.le_refl 0
  | .eos :: _ => Nat.zero_le 1
  | .byte _ :: ts => by
    rw [leadingBytes_byte, streamTokens, List.length_cons]
    exact Nat.succ_le_succ (leadingBytes_length_le ts)

/-! ### Registers -/

/-- A CSR number names the register whose number it is (R22). -/
theorem csrOf_number (c : Csr) : csrOf c.number = some c := by cases c <;> decide

/-- The number of the register a number names. -/
theorem number_of_csrOf {n : Byte} {c : Csr} (h : csrOf n = some c) : c.number = n := by
  have := List.find?_some h
  simpa using this

/-- The host reads a register by its number (R21). -/
@[simp] theorem hostRead_number (s : State) (c : Csr) : s.hostRead c.number = s.readCsr c := by
  simp [State.hostRead, csrOf_number]

@[simp] theorem lowWord_toNat (n : Nat) : (lowWord n).toNat = n % 2 ^ 32 := BitVec.toNat_ofNat _ _
@[simp] theorem highWord_toNat (n : Nat) : (highWord n).toNat = n / 2 ^ 32 % 2 ^ 32 := BitVec.toNat_ofNat _ _

/-- A 64-bit number split into a pair and put together again (R24). -/
theorem pairNat_words (n : Nat) (h : n < 2 ^ 64) : pairNat (lowWord n) (highWord n) = n := by
  rw [pairNat, lowWord_toNat, highWord_toNat]
  omega

/-- A pair holds a 64-bit number. -/
theorem pairNat_lt (lo hi : Word) : pairNat lo hi < 2 ^ 64 := by
  have := lo.isLt
  have := hi.isLt
  unfold pairNat
  omega

/-! ### The write quota -/

/-- What `quotaWrite` does (R329): the first Q bytes are written, and a byte is suppressed exactly when there are more. -/
theorem quotaWrite_eq : ∀ (ys : List Byte) (q : Nat),
    quotaWrite ys q = ⟨ys.take q, q - ys.length, min q ys.length, decide (q < ys.length)⟩
  | [], q => by simp [quotaWrite]
  | y :: ys, 0 => by
    have ih := quotaWrite_eq ys 0
    simp only [quotaWrite, Nat.lt_irrefl, if_false, ih]
    simp
  | y :: ys, q + 1 => by
    have ih := quotaWrite_eq ys q
    simp only [quotaWrite, Nat.zero_lt_succ, if_true, Nat.add_sub_cancel, ih]
    simp

/-! ### The host -/

/-- All the host's next action can do (R62, R77, R78, R430). -/
theorem hostAct_cases (s : State) :
    (s.hostq = [] ∧ s.hostAct = s) ∨
      (∃ w rest, s.hostq = .command w :: rest ∧ s.port = none ∧
        s.hostAct = { s with port := some w, hostq := rest }) ∨
      (∃ w rest, s.hostq = .command w :: rest ∧ s.port ≠ none ∧ s.hostAct = s) ∨
      (∃ ts rest, s.hostq = .append ts :: rest ∧ s.hostAct = { s with inq := s.inq ++ ts, hostq := rest }) ∨
      (∃ n rest, s.hostq = .take n :: rest ∧ s.hostAct = { s with outq := s.outq.drop n, hostq := rest }) ∨
      (∃ rest, s.hostq = .powerOn :: rest ∧ s.hostAct = { s with hostq := rest }.powerOn) := by
  unfold State.hostAct
  rcases hq : s.hostq with _ | ⟨a, rest⟩
  · simp
  · cases a with
    | command w => cases hp : s.port <;> simp
    | append ts => simp
    | take n => simp
    | powerOn => simp

end Sys2Proof.Machine
end

