-- ==== Sys2Proof/Laws/PerInstr.lean ====
section
/-! SUPPORT. Laws stated once per instruction, one lemma per constructor of `Instr` (LAWS.json, "per_instruction"). -/

namespace Sys2Proof.Laws.EncodeFields

open Sys2Proof

/-- The fields of an encoded command (R90): OPC its opcode, A and IMM its operands, RSV zero. -/
def Statement (i : Instr) : Prop :=
  fieldOpc (encode i) = i.opcode ∧ fieldA (encode i) = i.operandA ∧ fieldRsv (encode i) = 0 ∧
    fieldImm (encode i) = i.operandImm

/-- The fields of a concatenation in the order of R90. -/
theorem fields_append (imm : Word) (a opc : Byte) :
    fieldOpc (imm ++ (0 : BitVec 16) ++ a ++ opc) = opc ∧ fieldA (imm ++ (0 : BitVec 16) ++ a ++ opc) = a ∧
      fieldRsv (imm ++ (0 : BitVec 16) ++ a ++ opc) = 0 ∧ fieldImm (imm ++ (0 : BitVec 16) ++ a ++ opc) = imm := by
  refine ⟨?_, ?_, ?_, ?_⟩ <;> apply BitVec.eq_of_getLsbD_eq <;> intro i hi <;>
    simp only [fieldOpc, fieldA, fieldRsv, fieldImm, BitVec.getLsbD_extractLsb', BitVec.getLsbD_append, hi,
      decide_true, Bool.true_and]
  · rw [if_pos (by omega), Nat.zero_add]
  · rw [if_neg (by omega), if_pos (by omega), Nat.add_sub_cancel_left]
  · rw [if_neg (by omega), if_neg (by omega), if_pos (by omega)]
    simp
  · rw [if_neg (by omega), if_neg (by omega), if_neg (by omega)]
    congr 1
    omega

theorem nop : Statement .nop := fields_append _ _ _
theorem reset : Statement .reset := fields_append _ _ _
theorem csrWr (n : Byte) (v : Word) : Statement (.csrWr n v) := fields_append _ _ _
theorem csrRd (n : Byte) : Statement (.csrRd n) := fields_append _ _ _
theorem bbPutbyte (v : Byte) : Statement (.bbPutbyte v) := fields_append _ _ _
theorem bbPutbit (a : Byte) : Statement (.bbPutbit a) := fields_append _ _ _
theorem bbFlush : Statement .bbFlush := fields_append _ _ _
theorem bbGetbit : Statement .bbGetbit := fields_append _ _ _
theorem bbGetbyte : Statement .bbGetbyte := fields_append _ _ _
theorem bbAvail (t : Word) : Statement (.bbAvail t) := fields_append _ _ _
theorem bbClear : Statement .bbClear := fields_append _ _ _
theorem hufEncblk : Statement .hufEncblk := fields_append _ _ _
theorem hufDecblk : Statement .hufDecblk := fields_append _ _ _
theorem hufEnc : Statement .hufEnc := fields_append _ _ _
theorem hufDec : Statement .hufDec := fields_append _ _ _
theorem hufTblrd (sym : Byte) (w : Word) : Statement (.hufTblrd sym w) := fields_append _ _ _
theorem lzEnc : Statement .lzEnc := fields_append _ _ _
theorem lzDec : Statement .lzDec := fields_append _ _ _
theorem lzrecPut (d : Byte) (imm : Word) : Statement (.lzrecPut d imm) := fields_append _ _ _
theorem lzrecGet : Statement .lzrecGet := fields_append _ _ _
theorem ciphEnc : Statement .ciphEnc := fields_append _ _ _
theorem ciphDec : Statement .ciphDec := fields_append _ _ _
theorem arcBegin : Statement .arcBegin := fields_append _ _ _
theorem arcPutfile : Statement .arcPutfile := fields_append _ _ _
theorem arcPuttree : Statement .arcPuttree := fields_append _ _ _
theorem arcLoad : Statement .arcLoad := fields_append _ _ _
theorem arcOpen : Statement .arcOpen := fields_append _ _ _
theorem arcGettree : Statement .arcGettree := fields_append _ _ _
theorem arcGetfile : Statement .arcGetfile := fields_append _ _ _
theorem arcDump : Statement .arcDump := fields_append _ _ _

end Sys2Proof.Laws.EncodeFields
end

