-- ==== Sys2Proof/Laws/Tables.lean ====
section
/-! SUPPORT. SYMTAB as a map in canonical form (spec/10_state.md R42), and the priority structure (spec/41_huffman.md
R172). -/

namespace Sys2Proof.Machine

open Sys2Proof

theorem Symtab.lookup_cons (s : Byte) (c : Bits) (t : Symtab) (x : Byte) :
    Symtab.lookup ((s, c) :: t) x = if s = x then some c else Symtab.lookup t x := rfl

theorem Symtab.insert_cons (s : Byte) (c : Bits) (t : Symtab) (x : Byte) (v : Bits) :
    Symtab.insert x v ((s, c) :: t) =
      if s = x then (x, v) :: t else if x < s then (x, v) :: (s, c) :: t else (s, c) :: Symtab.insert x v t := rfl

/-- Every entry after one entry is added or replaced. -/
theorem Symtab.lookup_insert (x y : Byte) (v : Bits) (t : Symtab) :
    Symtab.lookup (Symtab.insert x v t) y = if x = y then some v else Symtab.lookup t y := by
  induction t with
  | nil => rfl
  | cons e t ih =>
    obtain ⟨s, c⟩ := e
    rw [Symtab.insert_cons]
    by_cases h1 : s = x
    · subst h1
      by_cases h3 : s = y <;> simp [Symtab.lookup_cons, h3]
    · by_cases h2 : x < s
      · simp [Symtab.lookup_cons, h1, h2]
      · by_cases h3 : x = y
        · subst h3; simp [Symtab.lookup_cons, h1, h2, ih]
        · simp [Symtab.lookup_cons, h1, h2, h3, ih]

/-- A symbol that is neither the same nor smaller is greater. -/
theorem Symtab.lt_of_ne_of_not_lt {s x : Byte} (h1 : ¬s = x) (h2 : ¬x < s) : s < x := by
  have : s.toNat ≠ x.toNat := fun h => h1 (BitVec.eq_of_toNat_eq h)
  simp only [BitVec.lt_def] at h2 ⊢
  omega

/-- Adding or replacing an entry keeps the symbols strictly rising. -/
theorem Symtab.sorted_insert (x : Byte) (v : Bits) (t : Symtab) (h : Symtab.sorted t = true) :
    Symtab.sorted (Symtab.insert x v t) = true := by
  induction t with
  | nil => rfl
  | cons e t ih =>
    obtain ⟨s, c⟩ := e
    rw [Symtab.insert_cons]
    cases t with
    | nil =>
      split_ifs with h1 h2
      · rfl
      · simp [Symtab.sorted, h2]
      · have : s < x := Symtab.lt_of_ne_of_not_lt h1 h2
        simp [Symtab.insert, Symtab.sorted, this]
    | cons e' t =>
      obtain ⟨s', c'⟩ := e'
      simp only [Symtab.sorted, Bool.and_eq_true, decide_eq_true_iff] at h
      have ht := ih h.2
      split_ifs with h1 h2
      · subst h1
        simp [Symtab.sorted, h.1, h.2]
      · simp [Symtab.sorted, h2, h.1, h.2]
      · have hx : s < x := Symtab.lt_of_ne_of_not_lt h1 h2
        rw [Symtab.insert_cons] at ht ⊢
        split_ifs at ht ⊢
        · simpa [Symtab.sorted, hx] using ht
        · simpa [Symtab.sorted, hx] using ht
        · simpa [Symtab.sorted, h.1] using ht

/-- An entry of a table built by insertion is the entry inserted or one that was there. -/
theorem Symtab.mem_insert {x : Byte} {v : Bits} {t : Symtab} {e : Byte × Bits} (h : e ∈ Symtab.insert x v t) :
    e = (x, v) ∨ e ∈ t := by
  induction t with
  | nil => simpa [Symtab.insert] using h
  | cons e' t ih =>
    obtain ⟨s, c⟩ := e'
    rw [Symtab.insert_cons] at h
    split_ifs at h
    · rcases List.mem_cons.mp h with h | h
      · exact .inl h
      · exact .inr (List.mem_cons_of_mem _ h)
    · rcases List.mem_cons.mp h with h | h
      · exact .inl h
      · exact .inr h
    · rcases List.mem_cons.mp h with h | h
      · exact .inr (h ▸ List.mem_cons_self)
      · exact (ih h).imp id (List.mem_cons_of_mem _)

/-- Taking the least node takes one node and leaves the others. -/
theorem removeLeast_perm (best : QueueNode) (ns : List QueueNode) :
    ((removeLeast best ns).1 :: (removeLeast best ns).2).Perm (best :: ns) := by
  induction ns generalizing best with
  | nil => exact List.Perm.refl _
  | cons n ns ih =>
    rw [removeLeast]
    split_ifs
    · exact (List.Perm.swap _ _ _).trans ((ih n).cons best)
    · exact ((List.Perm.swap _ _ _).trans ((ih best).cons n)).trans (List.Perm.swap _ _ _)

theorem QueueNode.before_iff (a b : QueueNode) : a.before b = true ↔ a.Precedes b := by
  simp [QueueNode.before, QueueNode.Precedes]

theorem QueueNode.Precedes.trans {a b c : QueueNode} (h : a.Precedes b) (h' : b.Precedes c) : a.Precedes c := by
  simp only [QueueNode.Precedes] at *
  omega

/-- Of two nodes with different insertion numbers one precedes the other. -/
theorem QueueNode.precedes_of_not_before {a b : QueueNode} (h : ¬a.before b = true) (hne : b.seq ≠ a.seq) :
    b.Precedes a := by
  simp only [QueueNode.before_iff, QueueNode.Precedes] at *
  omega

/-- Where insertion numbers are distinct, the node taken precedes every node that is left (R172). -/
theorem removeLeast_precedes (best : QueueNode) (ns : List QueueNode)
    (h : (best :: ns).Pairwise fun a b => a.seq ≠ b.seq) :
    ∀ m ∈ (removeLeast best ns).2, (removeLeast best ns).1.Precedes m := by
  induction ns generalizing best with
  | nil => intro m hm; simp [removeLeast] at hm
  | cons n ns ih =>
    obtain ⟨hbest, hrest⟩ := List.pairwise_cons.mp h
    have hwithout : (best :: ns).Pairwise fun a b => a.seq ≠ b.seq :=
      List.pairwise_cons.mpr ⟨fun a ha => hbest a (List.mem_cons_of_mem _ ha), (List.pairwise_cons.mp hrest).2⟩
    -- the node taken from `x :: ns` precedes whatever `x` precedes
    have reach : ∀ {x y : QueueNode}, (∀ m ∈ (removeLeast x ns).2, (removeLeast x ns).1.Precedes m) → x.Precedes y →
        (removeLeast x ns).1.Precedes y := by
      intro x y hx hxy
      rcases List.mem_cons.mp ((removeLeast_perm x ns).mem_iff.mpr List.mem_cons_self) with hm | hm
      · exact hm ▸ hxy
      · exact (hx x hm).trans hxy
    rw [removeLeast]
    split_ifs with hc <;> intro m hm <;> rcases List.mem_cons.mp hm with rfl | hm
    · exact reach (ih n hrest) ((QueueNode.before_iff _ _).mp hc)
    · exact ih n hrest m hm
    · exact reach (ih best hwithout) (QueueNode.precedes_of_not_before hc (hbest _ List.mem_cons_self))
    · exact ih best hwithout m hm

end Sys2Proof.Machine
end

