-- ==== Sys2Proof/Tests/Slice0.lean ====
section
/-! SUPPORT. The model's own tests. Expected results are the spec's worked examples (the rule is named in each
comment); the words are written out from R90 and R94. The last part shows, for every statement with hypotheses,
states and operands that meet them. -/

namespace Sys2Proof.Tests

open Sys2Proof Sys2Proof.Machine

/-! ### Well-formedness -/

/-- LZREC_PUT with IMM[31:8] not zero is no command (R94). -/
theorem test_wellFormed_refuses_wide_record : (Instr.lzrecPut 2 256).wellFormed = false := by decide
theorem test_wellFormed_takes_record : (Instr.lzrecPut 2 255).wellFormed = true := by decide
/-- Its encoding decodes to nothing. -/
theorem test_ill_formed_encoding_is_refused : decode (encode (.lzrecPut 2 256)) = .error (.mustBeZero 0x32) := rfl

/-! ### Decoding: one word for every row of R94 -/

theorem test_decode_nop : decode 0x0000000000000000 = .ok .nop := rfl
theorem test_decode_reset : decode 0x0000000000000001 = .ok .reset := rfl
theorem test_decode_csrWr : decode 0x0000000800001002 = .ok (.csrWr 0x10 8) := rfl
theorem test_decode_csrRd : decode 0x0000000000001003 = .ok (.csrRd 0x10) := rfl
theorem test_decode_bbPutbyte : decode 0x000000000000A510 = .ok (.bbPutbyte 0xA5) := rfl
theorem test_decode_bbPutbit : decode 0x0000000000000111 = .ok (.bbPutbit 1) := rfl
theorem test_decode_bbFlush : decode 0x0000000000000012 = .ok .bbFlush := rfl
theorem test_decode_bbGetbit : decode 0x0000000000000013 = .ok .bbGetbit := rfl
theorem test_decode_bbGetbyte : decode 0x0000000000000014 = .ok .bbGetbyte := rfl
theorem test_decode_bbAvail : decode 0x8000000700000015 = .ok (.bbAvail 0x80000007) := rfl
theorem test_decode_bbClear : decode 0x0000000000000016 = .ok .bbClear := rfl
theorem test_decode_hufEncblk : decode 0x0000000000000020 = .ok .hufEncblk := rfl
theorem test_decode_hufDecblk : decode 0x0000000000000021 = .ok .hufDecblk := rfl
theorem test_decode_hufEnc : decode 0x0000000000000022 = .ok .hufEnc := rfl
theorem test_decode_hufDec : decode 0x0000000000000023 = .ok .hufDec := rfl
theorem test_decode_hufTblrd : decode 0x0000000700006124 = .ok (.hufTblrd 0x61 7) := rfl
theorem test_decode_lzEnc : decode 0x0000000000000030 = .ok .lzEnc := rfl
theorem test_decode_lzDec : decode 0x0000000000000031 = .ok .lzDec := rfl
theorem test_decode_lzrecPut : decode 0x0000000300000232 = .ok (.lzrecPut 2 3) := rfl
theorem test_decode_lzrecGet : decode 0x0000000000000033 = .ok .lzrecGet := rfl
theorem test_decode_ciphEnc : decode 0x0000000000000040 = .ok .ciphEnc := rfl
theorem test_decode_ciphDec : decode 0x0000000000000041 = .ok .ciphDec := rfl
theorem test_decode_arcBegin : decode 0x0000000000000050 = .ok .arcBegin := rfl
theorem test_decode_arcPutfile : decode 0x0000000000000051 = .ok .arcPutfile := rfl
theorem test_decode_arcPuttree : decode 0x0000000000000052 = .ok .arcPuttree := rfl
theorem test_decode_arcLoad : decode 0x0000000000000053 = .ok .arcLoad := rfl
theorem test_decode_arcOpen : decode 0x0000000000000054 = .ok .arcOpen := rfl
theorem test_decode_arcGettree : decode 0x0000000000000055 = .ok .arcGettree := rfl
theorem test_decode_arcGetfile : decode 0x0000000000000056 = .ok .arcGetfile := rfl
theorem test_decode_arcDump : decode 0x0000000000000057 = .ok .arcDump := rfl
/-- Unassigned opcodes and bits that must be zero (R92, R93). -/
theorem test_decode_refuses_04 : decode 0x0000000000000004 = .error (.unassignedOpcode 0x04) := rfl
theorem test_decode_refuses_rsv : decode 0x0000000000010000 = .error (.mustBeZero 0x00) := rfl
theorem test_decode_refuses_unused_imm : decode 0x0000000100001003 = .error (.mustBeZero 0x03) := rfl
theorem test_decodeTableWord : decodeTableWord 64 0x0000000300000232 = some (.lzrecPut 2 3) := rfl

/-! ### Helpers -/

/-- Parameters to test with: KS_test of R303, a FIFO of 2 bytes, 64 bytes of ARCH_MEM, the reference of R393. -/
def testParams : Params where
  bbCapacity := 2
  archSize := 64
  leafOrder := .firstOccurrence
  lzOverlap := false
  dataLenIncludesFiller := false
  ks := fun seed i => BitVec.ofNat 8 (seed.toNat + i)
  faultOut := fun _ => []
  faultTake := fun _ => 0
  faultRes := fun _ _ => 0
  faultArch := fun _ _ => 0

/-- The answer is a next state with a property. -/
def nextIs (r : Result) (f : State → Bool) : Bool :=
  match r with
  | .next t => f t
  | .fault _ => false
  | .refused _ => false

/-- The state after reset, with a bit buffer. -/
def withBits (q : List Byte) (r : Fin 8) (pv : Byte) (pc : Fin 8) : State :=
  { State.reset with bb := { q := q, r := r, pv := pv, pc := pc } }

/-- The state after reset with legal sizes (B = 8, 8 bits, W = M = 4) and tokens in IN. -/
def withTokens (ts : List Token) : State :=
  { State.reset with
    inq := ts
    csr := { CsrFile.zero with hufBlockSize := 8, hufMaxCodeLen := 8, lzWindow := 4, lzMaxMatch := 4, seedLo := 3 } }

/-- That state with one stream in IN. -/
def withStream (bs : List Byte) : State := withTokens (bs.map Token.byte ++ [.eos])

/-- That state with an archive of these bytes. -/
def withArchive (status archLen arcFlags treePtr : Word) (bs : List Byte) (s : State) : State :=
  { s with
    arch := Mem.writeBytes 0 bs []
    csr := { s.csr with status := status, archLen := archLen, arcFlags := arcFlags, treePtr := treePtr } }

/-- "a" as a Huffman block (R180, R349). -/
def blockOfA : List Byte := [0, 0, 0, 3, 0x61, 1, 0, 0, 0, 0, 1, 7, 0]

/-- "abababab", its record bytes for W = M = 4 (R230) and the block of these (R182). -/
def abab : List Byte := [0x61, 0x62, 0x61, 0x62, 0x61, 0x62, 0x61, 0x62]
def ababRecords : List Byte := [0, 0x61, 0, 0x62, 2, 2, 4, 4]
def ababBlock : List Byte :=
  [0, 0, 0, 0x0F, 0, 2, 0, 2, 2, 2, 4, 2, 1, 0x61, 3, 3, 0x62, 3, 7, 0, 0, 0, 3, 6, 0x8C, 0x6B, 1]

/-- The empty-file archive (R343, R348). -/
def emptyArchive : List Byte := [0, 0, 0, 0, 5, 0, 0, 0, 0]

/-! ### Control -/

/-- R380. -/
theorem test_nop : nextIs (execNop State.reset) (fun t => t == { State.reset with retired := 1 }) = true := by decide
/-- R381: STATUS and IN are cleared, OUT is kept. -/
theorem test_reset : nextIs (execReset { withStream [1] with outq := [9] })
    (fun t => t.inq.isEmpty && t.outq == [9] && t.csr.hufBlockSize == 0) = true := by decide
/-- R382: HUF_BLOCK_SIZE = 8. -/
theorem test_csrWr : nextIs (execCsrWr 0x10 8 State.reset) (fun t => t.csr.hufBlockSize == 8) = true := by decide
/-- R382: CSR_WR 0x00, 0 faults BAD_OPERAND, STATUS = 0x00000201. -/
theorem test_csrWr_readOnly : nextIs (execCsrWr 0x00 0 State.reset) (fun t => t.csr.status == 0x201) = true := by
  decide
/-- R383, R36: a view. -/
theorem test_csrRd : nextIs (execCsrRd 0x28 (withBits [5] 2 0 0)) (fun t => t.csr.res0 == 6) = true := by decide

/-! ### Bit buffer -/

/-- R146. -/
theorem test_bbPutbyte : nextIs (bbPutbyte testParams 0xA5 State.reset) (fun t => t.bb.q == [0xA5]) = true := by decide
/-- R141, R391: with a bit pending, BB_MIXED. -/
theorem test_bbPutbyte_mixed : nextIs (bbPutbyte testParams 0xA5 (withBits [] 0 1 1))
    (fun t => t.csr.status == 0x1001 && t.bb.q.isEmpty) = true := by decide
/-- R147: the third bit of 1, 0, 1. -/
theorem test_bbPutbit : nextIs (bbPutbit testParams 1 (withBits [] 0 1 2))
    (fun t => t.bb.pv == 5 && t.bb.pc == 3) = true := by decide
/-- R142: the eighth bit completes the byte. -/
theorem test_bbPutbit_completes : nextIs (bbPutbit testParams 1 (withBits [7] 0 5 7))
    (fun t => t.bb == { q := [7, 0x85], r := 0, pv := 0, pc := 0 }) = true := by decide
/-- R148. -/
theorem test_bbFlush : nextIs (bbFlush testParams (withBits [] 0 5 3))
    (fun t => t.csr.res0 == 3 && t.bb.q == [5] && t.bb.pc == 0) = true := by decide
/-- R145: a full FIFO. -/
theorem test_bbFlush_full : nextIs (bbFlush testParams (withBits [1, 2] 0 5 3))
    (fun t => t.csr.status == 0x1201 && t.bb.pc == 3) = true := by decide
/-- R149: the eighth pop leaves the FIFO empty. -/
theorem test_bbGetbit : nextIs (execBbGetbit (withBits [0x85] 7 0 0))
    (fun t => t.csr.res0 == 1 && t.bb.q.isEmpty && t.bb.r == 0) = true := by decide
/-- R150. -/
theorem test_bbGetbyte : nextIs (execBbGetbyte (withBits [5, 6] 0 0 0))
    (fun t => t.csr.res0 == 5 && t.bb.q == [6]) = true := by decide
/-- R150: the head byte is partly read. -/
theorem test_bbGetbyte_mixed : nextIs (execBbGetbyte (withBits [5] 1 0 0)) (fun t => t.csr.status == 0x1001) = true := by
  decide
/-- R151: 6 readable bits are more than 5 and not more than 6. -/
theorem test_bbAvail : nextIs (execBbAvail 5 (withBits [5] 2 0 0)) (fun t => t.csr.res0 == 1) = true := by decide
theorem test_bbAvail_not : nextIs (execBbAvail 6 (withBits [5] 2 0 0)) (fun t => t.csr.res0 == 0) = true := by decide
/-- R152. -/
theorem test_bbClear : nextIs (execBbClear (withBits [5] 2 1 1)) (fun t => t.bb == BitBuffer.empty) = true := by decide

/-! ### Huffman -/

/-- R180: one short block; the EOS stays. -/
theorem test_hufEncblk : nextIs (execHufEncblk (withStream [0x61]))
    (fun t => t.outq == blockOfA && t.inq == [.eos] && t.csr.res0 == 1 && t.csr.res1 == 13) = true := by decide +kernel
/-- R181. -/
theorem test_hufDecblk : nextIs (execHufDecblk (withStream blockOfA))
    (fun t => t.outq == [0x61] && t.inq == [.eos] && t.symtab == [(0x61, [false])]) = true := by decide +kernel
/-- R182. -/
theorem test_hufEnc : nextIs (execHufEnc (withStream ababRecords))
    (fun t => t.outq == ababBlock && t.csr.res1 == 27 && t.csr.res2 == 1) = true := by decide +kernel
/-- R183. -/
theorem test_hufDec : nextIs (execHufDec (withStream ababBlock))
    (fun t => t.outq == ababRecords && t.csr.res2 == 1) = true := by decide +kernel
/-- R183: a stream that ends inside a block. -/
theorem test_hufDec_truncated : nextIs (execHufDec (withStream (ababBlock.take 26)))
    (fun t => t.csr.status == 0x2001 && t.symtab.isEmpty) = true := by decide +kernel
/-- R185: the code 1, 1, 0. -/
theorem test_hufTblrd : nextIs (execHufTblrd 0x61 0 { State.reset with symtab := [(0x61, [true, true, false])] })
    (fun t => t.csr.res0 == 3 && t.csr.res1 == 3) = true := by decide

/-! ### LZ77, records, cipher -/

/-- R230. -/
theorem test_lzEnc : nextIs (execLzEnc (withStream abab))
    (fun t => t.outq == ababRecords && t.csr.res2 == 4) = true := by decide +kernel
/-- R231: an overlapping copy. -/
theorem test_lzDec : nextIs (execLzDec (withStream [0, 0x61, 0, 0x62, 2, 6]))
    (fun t => t.outq == abab && t.csr.res1 == 8) = true := by decide +kernel
/-- R231: a first record that is a Copy. -/
theorem test_lzDec_badCopy : nextIs (execLzDec (withStream [2, 1])) (fun t => t.csr.status == 0x3101) = true := by
  decide +kernel
/-- R280. -/
theorem test_lzrecPut : nextIs (execLzrecPut 2 3 State.reset) (fun t => t.outq == [2, 3]) = true := by decide
/-- R280: a Copy of length 0. -/
theorem test_lzrecPut_zero : nextIs (execLzrecPut 2 0 State.reset) (fun t => t.csr.status == 0x201) = true := by decide
/-- R281. -/
theorem test_lzrecGet : nextIs (execLzrecGet (withStream [2, 3]))
    (fun t => t.csr.res0 == 2 && t.csr.res1 == 3 && t.csr.res2 == 0 && t.inq == [.eos]) = true := by decide
theorem test_lzrecGet_exhausted : nextIs (execLzrecGet (withStream []))
    (fun t => t.csr.res2 == 1 && t.inq.isEmpty) = true := by decide
/-- R303, with KS_test and seed 3. -/
theorem test_ciphEnc : nextIs (ciphEnc testParams (withStream [0x61, 0x62, 0xFE]))
    (fun t => t.outq == [0x64, 0x66, 0x03] && t.csr.res0 == 3) = true := by decide +kernel
/-- R304. -/
theorem test_ciphDec : nextIs (ciphDec testParams (withStream [0x64, 0x66, 0x03]))
    (fun t => t.outq == [0x61, 0x62, 0xFE]) = true := by decide +kernel

/-! ### Archive -/

/-- R340: FLAGS = 2. -/
theorem test_arcBegin : nextIs (execArcBegin { State.reset with csr := { CsrFile.zero with flags := 2 } })
    (fun t => t.arch == Mem.writeBytes 0 [2, 0, 0, 0, 0] [] && t.csr.archLen == 5 && t.csr.arcFlags == 2 &&
      t.csr.status == 4) = true := by decide
/-- R341. -/
theorem test_arcPutfile : nextIs (arcPutfile testParams (withArchive 4 5 2 0 [2, 0, 0, 0, 0] (withStream abab)))
    (fun t => Mem.readBytes t.arch 5 27 == some ababBlock && t.csr.res0 == 5 && t.csr.res1 == 27 &&
      t.csr.res2 == 8 && t.csr.archLen == 32) = true := by decide +kernel
/-- R342. -/
theorem test_arcPuttree : nextIs (arcPuttree testParams (withArchive 4 32 2 0 [2, 0, 0, 0, 0] (withStream [])))
    (fun t => Mem.readBytes t.arch 32 4 == some [0, 0, 0, 0] && Mem.readBytes t.arch 1 4 == some [0, 0, 0, 0x20] &&
      t.csr.res0 == 32 && t.csr.res1 == 36 && t.csr.status == 0) = true := by decide +kernel
/-- R343. -/
theorem test_arcLoad : nextIs (arcLoad testParams (withStream emptyArchive))
    (fun t => t.csr.archLen == 9 && t.csr.res0 == 9 && Mem.readBytes t.arch 0 9 == some emptyArchive) = true := by
  decide +kernel
/-- R344. -/
theorem test_arcOpen : nextIs (execArcOpen (withArchive 0 9 0 0 emptyArchive (withTokens [])))
    (fun t => t.csr.treePtr == 5 && t.csr.res0 == 9 && t.csr.res1 == 0 && t.csr.status == 8) = true := by
  decide +kernel
/-- R344: the placeholder 0 is still there. -/
theorem test_arcOpen_unfinished : nextIs (execArcOpen (withArchive 4 9 0 0 [0, 0, 0, 0, 0, 0, 0, 0, 0] (withTokens [])))
    (fun t => t.csr.status == 0x4005) = true := by decide +kernel
/-- R345. -/
theorem test_arcGettree : nextIs (execArcGettree (withArchive 8 10 0 5 [0, 0, 0, 0, 5, 0, 0, 0, 1, 0xAA] (withTokens [])))
    (fun t => t.outq == [0xAA] && t.csr.res0 == 1) = true := by decide +kernel
/-- R346: "abababab" through a quota of 5. -/
theorem test_arcGetfile : nextIs (arcGetfile testParams
    (withArchive 8 36 2 32 ([2, 0, 0, 0, 0x20] ++ ababBlock ++ [0, 0, 0, 0])
      { withTokens [] with csr := { (withTokens []).csr with arg0 := 5, arg1 := 27, arg2 := 8, quotaLo := 5 } }))
    (fun t => t.outq == [0x61, 0x62, 0x61, 0x62, 0x61] && t.csr.res0 == 8 && t.csr.res2 == 5 &&
      t.csr.quotaLo == 0 && t.csr.status == 0x0A) = true := by decide +kernel
/-- R347. -/
theorem test_arcDump : nextIs (execArcDump (withArchive 0 9 0 0 emptyArchive State.reset))
    (fun t => t.outq == emptyArchive && t.csr.res0 == 9) = true := by decide +kernel

/-! ### The step -/

/-- A command written to the port is what the next step runs (R62 a, R90). -/
theorem test_withFetchWord : nextIs (step (State.reset.withFetchWord 64 0x0000000800001002))
    (fun t => t.csr.hufBlockSize == 8 && t.port.isNone && t.retired == 1) = true := by decide
/-- A command without its input is held (R77). -/
theorem test_held : nextIs (step (State.reset.withFetchWord 64 0x22))
    (fun t => t == State.reset.withFetchWord 64 0x22) = true := by decide

/-! ### States and operands that meet the hypotheses of the statements

Each theorem is named after its statement and gives, clause by clause, values that meet the clause's hypotheses, at
the ends of their ranges where a clause has a range. -/

/-- A state whose first fault has been BB_MIXED. -/
def faultedState : State := { State.reset with csr := { CsrFile.zero with status := 0x1001 } }

/-- The state of `withTokens` with other Huffman limits. -/
def withLimits (size maxLen : Word) (s : State) : State :=
  { s with csr := { s.csr with hufBlockSize := size, hufMaxCodeLen := maxLen } }

theorem eos_mem_stream (bs : List Byte) : Token.eos ∈ (withStream bs).inq := by
  simp [withStream, withTokens]

/-- A codec answers a value. -/
def answers {α : Type} [DecidableEq α] (r : Except FaultCode α) (v : α) : Bool :=
  match r with
  | .ok x => decide (x = v)
  | .error _ => false

theorem eq_of_answers {α : Type} [DecidableEq α] {r : Except FaultCode α} {v : α} (h : answers r v = true) :
    r = .ok v := by
  cases r with
  | ok x => exact congrArg Except.ok (of_decide_eq_true h)
  | error c => exact absurd h Bool.false_ne_true

/-- A codec faults. -/
def faults {α : Type} (r : Except FaultCode α) (c : FaultCode) : Bool :=
  match r with
  | .ok _ => false
  | .error c' => decide (c' = c)

theorem eq_of_faults {α : Type} {r : Except FaultCode α} {c : FaultCode} (h : faults r c = true) : r = .error c := by
  cases r with
  | ok x => exact absurd h Bool.false_ne_true
  | error c' => exact congrArg Except.error (of_decide_eq_true h)

/-- A word that faults at decode is no command. -/
theorem not_decoded {w : CommandWord} {e : DecodeError} (h : decode w = .error e) : ∀ i, decode w ≠ .ok i := by
  intro i hi
  rw [h] at hi
  cases hi

theorem witness_DecodeEncodeRoundTrip :
    (Instr.lzrecPut 0xFF 0xFF).wellFormed = true ∧ (Instr.csrWr 0xFF 0xFFFFFFFF).wellFormed = true := by decide

theorem witness_DecodedWordIsItsEncoding :
    decode 0x000000FF0000FF32 = .ok (.lzrecPut 0xFF 0xFF) ∧ decode 0xFFFFFFFF0000FF02 = .ok (.csrWr 0xFF 0xFFFFFFFF) :=
  ⟨rfl, rfl⟩

theorem witness_OpcodeMapRows :
    (0x000000FF0000FF32 : CommandWord) &&& 0xFFFFFF00FFFF00FF = 0x32 ∧
      ¬(0x000001000000FF32 : CommandWord) &&& 0xFFFFFF00FFFF00FF = 0x32 := by decide

theorem witness_StepRunsTheDecodedCommand :
    (State.reset.withFetchWord 64 0x12).port = some 0x12 ∧ decode 0x12 = .ok .bbFlush ∧
      held Params.hw .bbFlush (State.reset.withFetchWord 64 0x12) = false := ⟨rfl, rfl, rfl⟩

theorem witness_IllegalWordFaults :
    ((0x58 : CommandWord).extractLsb' 0 8).toNat = 0x58 ∧
      (State.reset.withFetchWord 64 0x58).port = some 0x58 ∧
      (State.reset.withFetchWord 64 0x58).faulted = false ∧
      (∀ i, decode 0x58 ≠ .ok i) ∧ (∀ i, decode 0x10000 ≠ .ok i) :=
  ⟨rfl, rfl, rfl, not_decoded (w := 0x58) rfl, not_decoded (w := 0x10000) rfl⟩

/-- No EOS and one token too few: 7 of 8 symbols, 12 of a block's 13 bytes, 1 of 2 tokens. -/
theorem witness_HeldCommandChangesNothing :
    (withTokens (abab.take 7 |>.map Token.byte)).faulted = false ∧
      Token.eos ∉ (withTokens (abab.take 7 |>.map Token.byte)).inq ∧
      (withTokens (abab.take 7 |>.map Token.byte)).inq.length = 7 ∧
      (withTokens (abab.take 7 |>.map Token.byte)).csr.hufBlockSize.toNat = 8 ∧
      parseBlock Params.hw 8 (leadingBytes (withTokens (blockOfA.take 12 |>.map Token.byte)).inq) =
        .error .hufTruncated ∧
      (withTokens [.byte 1]).inq.length = 1 := ⟨rfl, by decide, rfl, rfl, rfl, rfl⟩

/-- An idle block, and one that holds HUF_ENC, with each host action in turn. -/
theorem witness_HostActsWhileTheBlockWaits :
    State.reset.port = none ∧ State.reset.hostq = [] ∧
      ((State.reset.withFetchWord 64 0x22).port = some 0x22 ∧ decode 0x22 = .ok .hufEnc ∧
        held Params.hw .hufEnc (State.reset.withFetchWord 64 0x22) = true) ∧
      { State.reset with hostq := [.command 0x22] }.hostq = .command 0x22 :: [] ∧
      { State.reset with hostq := [.append [.byte 1, .eos]] }.hostq = .append [.byte 1, .eos] :: [] ∧
      Token.eos ∈ [Token.byte 1, .eos] ∧
      { State.reset with hostq := [.take 0, .take 1] }.hostq = .take 0 :: [.take 1] ∧
      { State.reset with hostq := [.powerOn] }.hostq = .powerOn :: [] :=
  ⟨rfl, rfl, ⟨rfl, rfl, rfl⟩, rfl, rfl, by decide, rfl, rfl⟩

theorem witness_FaultEntryRecordsTheFirst : State.reset.faulted = false ∧ faultedState.faulted = true := by decide

theorem witness_FaultedBlockIgnoresCommands :
    faultedState.faulted = true ∧ Instr.hufEnc ≠ .reset ∧ (∀ n, Instr.hufEnc ≠ .csrRd n) ∧
      (faultedState.withFetchWord 64 0x22).port = some 0x22 ∧ decode 0x22 = .ok .hufEnc ∧
      (∀ i, decode 0x04 ≠ .ok i) ∧ (∀ c : Csr, c.number ≠ 0x05) :=
  ⟨rfl, by decide, fun _ => nofun, rfl, rfl, not_decoded (w := 0x04) rfl, fun c => by cases c <;> decide⟩

/-- A fault of each kind: R392 and R393. -/
theorem witness_FaultEffects :
    State.reset.faulted = false ∧
      nextIs (exec .bbGetbit State.reset) (fun t => t.faulted) = true ∧
      (withStream [2, 1]).faulted = false ∧
      nextIs (exec .lzDec (withStream [2, 1])) (fun t => t.faulted) = true :=
  ⟨rfl, by decide, rfl, by decide +kernel⟩

/-- Each register at 0 or one above its greatest legal value, alone, with the archive being built or read and LZ77 on;
FLAGS = 4; and neither archive state. Then, with no EOS: a whole block's tokens and a limit of 256, the bytes of a block
and a limit of 256, and an empty IN with the archive read, a limit of 0 and FLAGS = 4. -/
theorem witness_PrechecksFault :
    let legal := (withStream []).csr
    let put := fun csr : CsrFile => { withStream [] with csr := csr }
    (∀ s ∈ [withStream [], put { legal with hufBlockSize := 0 }, put { legal with hufBlockSize := 0x08000001 },
      put { legal with hufMaxCodeLen := 0 }, put { legal with hufMaxCodeLen := 256 },
      put { legal with lzWindow := 256, status := 4, arcFlags := 2 }, put { legal with lzMaxMatch := 0 },
      put { legal with lzWindow := 0, status := 8, arcFlags := 2 }, put { legal with flags := 4 }],
      s.faulted = false ∧ hasEos s.inq = true) ∧
    (put { legal with hufBlockSize := 0 }).csr.hufBlockSize.toNat < 1 ∧
    2 ^ 27 < (put { legal with hufBlockSize := 0x08000001 }).csr.hufBlockSize.toNat ∧
    (put { legal with hufMaxCodeLen := 0 }).csr.hufMaxCodeLen.toNat < 1 ∧
    255 < (put { legal with hufMaxCodeLen := 256 }).csr.hufMaxCodeLen.toNat ∧
    255 < (put { legal with lzWindow := 256, status := 4, arcFlags := 2 }).csr.lzWindow.toNat ∧
    statusArcW (put { legal with lzWindow := 256, status := 4, arcFlags := 2 }).csr.status = true ∧
    (put { legal with lzMaxMatch := 0 }).csr.lzMaxMatch.toNat < 1 ∧
    statusArcR (put { legal with lzWindow := 0, status := 8, arcFlags := 2 }).csr.status = true ∧
    (put { legal with lzWindow := 0, status := 8, arcFlags := 2 }).csr.arcFlags.getLsbD 1 = true ∧
    4 ≤ (put { legal with flags := 4 }).csr.flags.toNat ∧
    ¬statusArcW (withStream []).csr.status = true ∧ ¬statusArcR (withStream []).csr.status = true ∧
    (∀ ts ∈ [abab, blockOfA], (withLimits 8 256 (withTokens (ts.map Token.byte))).faulted = false ∧
      255 < (withLimits 8 256 (withTokens (ts.map Token.byte))).csr.hufMaxCodeLen.toNat) ∧
    (withLimits 8 256 (withTokens (abab.map Token.byte))).csr.hufBlockSize.toNat ≤
      (leadingBytes (withLimits 8 256 (withTokens (abab.map Token.byte))).inq).length ∧
    parseBlock Params.hw (withLimits 8 256 (withTokens (blockOfA.map Token.byte))).csr.hufMaxCodeLen.toNat
      (leadingBytes (withLimits 8 256 (withTokens (blockOfA.map Token.byte))).inq) ≠ .error .hufTruncated ∧
    statusArcR ({ withTokens [] with csr := { legal with hufMaxCodeLen := 0, status := 8, flags := 4 } } :
      State).csr.status = true := by
  refine ⟨by decide, by decide, by decide, by decide, by decide, by decide, by decide, by decide, by decide, by decide,
    by decide, by decide, by decide, by decide, by decide, fun h => ?_, by decide⟩
  exact absurd (congrArg Except.toBool h) (by decide +kernel)

theorem witness_CodecsDoNotUseTheBitBuffer :
    Instr.lzrecGet.family ∈ [Family.huffman, .lz77, .record, .cipher, .archive] ∧
      exec .lzrecGet (withTokens [.eos]) =
        .next { withTokens [] with csr := { (withTokens []).csr with res2 := 1 }, retired := 1 } := ⟨by decide, rfl⟩

theorem witness_ArchMemWriters :
    Instr.bbClear.writesArch = false ∧ exec .bbClear State.reset = .next { State.reset with retired := 1 } ∧
      nextIs (exec .arcBegin State.reset) (fun t => t.csr.archLen == 5) = true := ⟨rfl, rfl, by decide⟩

/-- Two memories that differ at the first address at or above ARCH_LEN = 9. -/
theorem witness_BytesBeyondArchLenAreNeverRead :
    (∀ a, a < (withArchive 0 9 0 0 emptyArchive State.reset).csr.archLen.toNat →
      Mem.read (Mem.write 9 0xAA (Mem.writeBytes 0 emptyArchive [])) a =
        Mem.read (withArchive 0 9 0 0 emptyArchive State.reset).arch a) ∧
      nextIs (exec .arcDump (withArchive 0 9 0 0 emptyArchive State.reset)) (fun t => t.outq.length == 9) = true := by
  decide +kernel

theorem witness_RegisterWriters :
    Instr.hufTblrd 0 0 ≠ .reset ∧ (∀ v, Instr.hufTblrd 0 0 ≠ .csrWr 0x08 v) ∧
      (Instr.hufTblrd 0 0).writesSymtab = false ∧
      (∀ v, Instr.hufTblrd 0 0 ≠ .csrWr 0x1C v ∧ Instr.hufTblrd 0 0 ≠ .csrWr 0x1D v) ∧
      exec (.hufTblrd 0 0) State.reset = .next { State.reset with retired := 1 } :=
  ⟨by decide, fun _ => nofun, rfl, fun _ => ⟨nofun, nofun⟩, rfl⟩

theorem witness_StreamsMoveOneWay :
    nextIs (exec .lzEnc (withStream [1, 1])) (fun t => t.outq.length == 4 && t.inq.isEmpty) = true ∧
      Instr.lzEnc ≠ .reset := by decide +kernel

theorem witness_CommandsAreCountedOnce :
    held Params.hw .hufEnc State.reset = true ∧ exec .hufEnc State.reset = .next State.reset ∧
      held Params.hw .nop State.reset = false ∧ exec .nop State.reset = .next { State.reset with retired := 1 } :=
  ⟨rfl, rfl, rfl, rfl⟩

theorem witness_NopAndResetResults :
    Instr.nop ≠ .reset ∧ faultedState.faulted = true ∧
      exec .nop faultedState = .next { faultedState with retired := 1 } := ⟨by decide, rfl, rfl⟩

/-- A writable register, an unassigned number and a read-only one. -/
theorem witness_CsrWriteResult :
    State.reset.faulted = false ∧ Csr.quotaHi.writable = true ∧ Csr.quotaLo ≠ Csr.quotaHi ∧
      (∀ c : Csr, c.writable = true → c.number ≠ 0x05) ∧ (∀ c : Csr, c.writable = true → c.number ≠ 0x00) :=
  ⟨rfl, rfl, by decide, fun c => by cases c <;> decide, fun c => by cases c <;> decide⟩

theorem witness_CsrReadResult : State.reset.faulted = false ∧ (∀ c : Csr, c.number ≠ 0x05) :=
  ⟨rfl, fun c => by cases c <;> decide⟩

/-- An empty FIFO is not full, and one of P_BB_CAPACITY bytes is. -/
theorem empty_not_full : (0 : Nat) ≠ Params.hw.bbCapacity := fun h => nomatch h
theorem full_length : (List.replicate Params.hw.bbCapacity (0 : Byte)).length = Params.hw.bbCapacity :=
  List.length_replicate

theorem witness_PutByteResult :
    State.reset.faulted = false ∧ State.reset.bb.pc = 0 ∧ State.reset.bb.q.length ≠ Params.hw.bbCapacity ∧
      (withBits [] 0 1 1).bb.pc ≠ 0 ∧ (withBits [] 0 0x7F 7).bb.pc ≠ 0 ∧
      (withBits (List.replicate Params.hw.bbCapacity 0) 0 0 0).bb.pc = 0 ∧
      (withBits (List.replicate Params.hw.bbCapacity 0) 0 0 0).bb.q.length = Params.hw.bbCapacity :=
  ⟨rfl, rfl, empty_not_full, by decide, by decide, rfl, full_length⟩

/-- Operands 0, 1, 2 and 255; 0, 6 and 7 bits pending; an empty and a full FIFO. -/
theorem witness_PutBitResult :
    (withBits [] 0 0 0).faulted = false ∧ (0 : Byte).toNat ≤ 1 ∧ (1 : Byte).toNat ≤ 1 ∧
      1 < (2 : Byte).toNat ∧ 1 < (255 : Byte).toNat ∧
      (withBits [] 0 0 0).bb.pc.val < 7 ∧ (withBits [] 0 0x3F 6).bb.pc.val < 7 ∧
      (withBits [] 0 0x7F 7).bb.pc.val = 7 ∧ (withBits [] 0 0x7F 7).bb.q.length ≠ Params.hw.bbCapacity ∧
      (withBits (List.replicate Params.hw.bbCapacity 0) 0 0x7F 7).bb.pc.val = 7 ∧
      (withBits (List.replicate Params.hw.bbCapacity 0) 0 0x7F 7).bb.q.length = Params.hw.bbCapacity :=
  ⟨rfl, by decide, by decide, by decide, by decide, by decide, by decide, rfl, empty_not_full, rfl, full_length⟩

theorem witness_FlushResult :
    (withBits [] 0 0 0).faulted = false ∧ (withBits [] 0 0 0).bb.pc = 0 ∧
      (withBits [] 0 1 1).bb.pc ≠ 0 ∧ (withBits [] 0 0x7F 7).bb.pc ≠ 0 ∧
      (withBits [] 0 0x7F 7).bb.q.length ≠ Params.hw.bbCapacity ∧
      (withBits (List.replicate Params.hw.bbCapacity 0) 0 1 1).bb.pc ≠ 0 ∧
      (withBits (List.replicate Params.hw.bbCapacity 0) 0 1 1).bb.q.length = Params.hw.bbCapacity :=
  ⟨rfl, rfl, by decide, by decide, empty_not_full, by decide, full_length⟩

/-- An empty FIFO with bits pending; a head byte with 0, 1, 6 and 7 bits read. -/
theorem witness_PopResults :
    (withBits [] 0 1 1).faulted = false ∧ (withBits [] 0 1 1).bb.q = [] ∧
      (withBits [0x80] 0 0 0).bb.q = 0x80 :: [] ∧
      (withBits [0x80] 0 0 0).bb.r.val < 7 ∧ (withBits [0x80] 6 0 0).bb.r.val < 7 ∧
      (withBits [0x80] 7 0 0).bb.r.val = 7 ∧ (withBits [0x80] 0 0 0).bb.r = 0 ∧
      (withBits [0x80] 1 0 0).bb.r ≠ 0 ∧ (withBits [0x80] 7 0 0).bb.r ≠ 0 :=
  ⟨rfl, rfl, rfl, by decide, by decide, rfl, rfl, by decide, by decide⟩

theorem witness_AvailAndClearResults : State.reset.faulted = false := rfl

theorem sound_bits (r : Fin 8) (pv : Byte) (pc : Fin 8) (h : pv.toNat < 2 ^ pc.val) :
    BitBuffer.Sound Params.hw (withBits [0x85] r pv pc).bb where
  fits := Nat.succ_le_succ (Nat.zero_le _)
  emptyUnread := nofun
  pending := h

/-- Each of the five commands answers a state without a fault from a sound buffer. -/
theorem witness_BitBufferIsAQueue :
    BitBuffer.Sound Params.hw State.reset.bb ∧ BitBuffer.Sound Params.hw (withBits [0x85] 7 0x3F 6).bb ∧
      (∃ t, exec (.bbPutbyte 0xA5) State.reset = .next t ∧ t.faulted = false) ∧
      (∃ t, exec (.bbPutbit 1) (withBits [0x85] 7 0x3F 6) = .next t ∧ t.faulted = false) ∧
      (∃ t, exec .bbFlush State.reset = .next t ∧ t.faulted = false) ∧
      (∃ t, exec .bbGetbit (withBits [0x85] 7 0x3F 6) = .next t ∧ t.faulted = false) ∧
      BitBuffer.Sound Params.hw (withBits [0x85] 0 0x3F 6).bb ∧
      (∃ t, exec .bbGetbyte (withBits [0x85] 0 0x3F 6) = .next t ∧ t.faulted = false) :=
  ⟨⟨Nat.zero_le _, fun _ => rfl, by decide⟩, sound_bits 7 0x3F 6 (by decide), ⟨_, rfl, rfl⟩, ⟨_, rfl, rfl⟩,
    ⟨_, rfl, rfl⟩, ⟨_, rfl, rfl⟩, sound_bits 0 0x3F 6 (by decide), ⟨_, rfl, rfl⟩⟩

/-- B and the longest code at both ends of their ranges; an exhausted stream; a full block, a short last one, and
one whose codes are too long. -/
theorem witness_EncodeBlockResult :
    (∀ s ∈ [withStream [], withStream abab, withStream [0x61], withLimits 1 1 (withStream [0x61]),
      withLimits 0x08000000 255 (withStream [0x61]), withLimits 3 1 (withStream [1, 2, 3])],
      s.faulted = false ∧ 1 ≤ s.csr.hufBlockSize.toNat ∧ s.csr.hufBlockSize.toNat ≤ 2 ^ 27 ∧
        1 ≤ s.csr.hufMaxCodeLen.toNat ∧ s.csr.hufMaxCodeLen.toNat ≤ 255) ∧
    (withStream []).inq = .eos :: [] ∧
    (withStream abab).inq = abab.map Token.byte ++ [.eos] ∧
    abab.length = (withStream abab).csr.hufBlockSize.toNat ∧
    (withLimits 0x08000000 255 (withStream [0x61])).inq = [0x61].map Token.byte ++ .eos :: [] ∧
    [0x61].length < (withLimits 0x08000000 255 (withStream [0x61])).csr.hufBlockSize.toNat ∧
    [0x61].length = (withLimits 1 1 (withStream [0x61])).csr.hufBlockSize.toNat ∧
    (∀ e ∈ huffBuild .firstOccurrence [0x61], e.2.length ≤ 1) ∧
    (∀ e ∈ huffBuild .firstOccurrence abab, e.2.length ≤ 8) ∧
    [1, 2, 3].length = (withLimits 3 1 (withStream [1, 2, 3])).csr.hufBlockSize.toNat ∧
    (∃ e ∈ huffBuild .firstOccurrence [1, 2, 3], 1 < e.2.length) := by decide +kernel

theorem witness_DecodeBlockResult :
    (∀ s ∈ [withStream [], withLimits 0 1 (withStream blockOfA), withLimits 0 255 (withStream (blockOfA.take 12))],
      s.faulted = false ∧ 1 ≤ s.csr.hufMaxCodeLen.toNat ∧ s.csr.hufMaxCodeLen.toNat ≤ 255) ∧
    (withStream []).inq = .eos :: [] ∧
    (withLimits 0 1 (withStream blockOfA)).inq.head? ≠ some .eos ∧
    parseBlock Params.hw 1 (leadingBytes (withLimits 0 1 (withStream blockOfA)).inq) =
      .ok ([(0x61, [false])], [0x61], 13) ∧
    Token.eos ∈ (withLimits 0 255 (withStream (blockOfA.take 12))).inq ∧
    (withLimits 0 255 (withStream (blockOfA.take 12))).inq.head? ≠ some .eos ∧
    parseBlock Params.hw 255 (leadingBytes (withLimits 0 255 (withStream (blockOfA.take 12))).inq) =
      .error .hufTruncated ∧
    parseBlock Params.hw 8 (leadingBytes (withLimits 0 8 (withTokens [.byte 0, .byte 0, .byte 0, .byte 0])).inq) =
      .error .hufBadTable :=
  ⟨by decide, rfl, by decide, eq_of_answers (by decide +kernel), by decide, by decide,
    eq_of_faults (by decide +kernel), eq_of_faults (by decide +kernel)⟩

/-- A stream that fits, an empty one, and one whose codes are too long. -/
theorem witness_EncodeStreamResult :
    (∀ s ∈ [withLimits 0x08000000 255 (withStream abab), withLimits 1 1 (withStream []),
      withLimits 3 1 (withStream [1, 2, 3])],
      s.faulted = false ∧ 1 ≤ s.csr.hufBlockSize.toNat ∧ s.csr.hufBlockSize.toNat ≤ 2 ^ 27 ∧
        1 ≤ s.csr.hufMaxCodeLen.toNat ∧ s.csr.hufMaxCodeLen.toNat ≤ 255) ∧
    (withLimits 0x08000000 255 (withStream abab)).inq = abab.map Token.byte ++ .eos :: [] ∧
    (withLimits 1 1 (withStream [])).inq = ([] : List Byte).map Token.byte ++ .eos :: [] ∧
    (withLimits 3 1 (withStream [1, 2, 3])).inq = [1, 2, 3].map Token.byte ++ .eos :: [] ∧
    (∀ x ∈ blocks 0x08000000 abab, ∀ e ∈ huffBuild .firstOccurrence x, e.2.length ≤ 255) ∧
    (∃ x ∈ blocks 3 [1, 2, 3], ∃ e ∈ huffBuild .firstOccurrence x, 1 < e.2.length) := by decide +kernel

theorem witness_DecodeStreamResult :
    (withStream blockOfA).faulted = false ∧ (withStream blockOfA).csr.hufMaxCodeLen.toNat = 8 ∧
      (withStream blockOfA).inq = blockOfA.map Token.byte ++ .eos :: [] ∧
      hufDecodeStream Params.hw 8 blockOfA = .ok ([0x61], [[(0x61, [false])]]) ∧
      hufDecodeStream Params.hw 8 [] = .ok ([], []) ∧
      hufDecodeStream Params.hw 8 (blockOfA.take 12) = .error .hufTruncated :=
  ⟨rfl, rfl, rfl, eq_of_answers (by decide +kernel), eq_of_answers (by decide +kernel),
    eq_of_faults (by decide +kernel)⟩

/-- Word indices 0, 7 and 8, a symbol that is there and one that is absent. -/
theorem witness_TableReadResult :
    State.reset.faulted = false ∧ (0 : Word).toNat ≤ 7 ∧ (7 : Word).toNat ≤ 7 ∧ 7 < (8 : Word).toNat ∧
      Symtab.lookup [(0x61, [true, true, false])] 0x61 = some [true, true, false] ∧
      Symtab.lookup State.reset.symtab 0x61 = none := by decide

/-- W and M at both ends; record bytes that replay, and some that do not. -/
theorem witness_LzStreamResults :
    let put := fun (w m : Word) (bs : List Byte) =>
      { withStream bs with csr := { (withStream bs).csr with lzWindow := w, lzMaxMatch := m } }
    (∀ s ∈ [put 1 1 abab, put 255 255 abab, put 2 0 ababRecords, put 4 0 ababRecords, put 255 0 [2, 1], put 1 0 [0]],
      s.faulted = false ∧ 1 ≤ s.csr.lzWindow.toNat ∧ s.csr.lzWindow.toNat ≤ 255) ∧
    (put 255 255 abab).inq = abab.map Token.byte ++ .eos :: [] ∧
    (∀ s ∈ [put 1 1 abab, put 255 255 abab], 1 ≤ s.csr.lzMaxMatch.toNat ∧ s.csr.lzMaxMatch.toNat ≤ 255) ∧
    lzDecodeBytes 4 ababRecords = .ok abab ∧ lzDecodeBytes 2 ababRecords = .error .lzBadCopy ∧
    lzDecodeBytes 255 [2, 1] = .error .lzBadCopy ∧ lzDecodeBytes 1 [0] = .error .lzTruncated := by decide +kernel

theorem witness_RecordResults :
    (withStream []).faulted = false ∧ (255 : Word).toNat < 256 ∧ ((255 : Byte) ≠ 0 → (255 : Word) ≠ 0) ∧
      ((0 : Byte) ≠ 0 → (0 : Word) ≠ 0) ∧ (1 : Byte) ≠ 0 ∧
      (withStream []).inq = .eos :: [] ∧
      (withStream [2, 3]).inq = .byte 2 :: .byte 3 :: [.eos] ∧ ((2 : Byte) ≠ 0 → (3 : Byte) ≠ 0) ∧
      (withStream [0, 0]).inq = .byte 0 :: .byte 0 :: [.eos] ∧ ((0 : Byte) ≠ 0 → (0 : Byte) ≠ 0) ∧
      (withStream [2, 0]).inq = .byte 2 :: .byte 0 :: [.eos] ∧
      (withStream [2]).inq = .byte 2 :: .eos :: [] :=
  ⟨rfl, by decide, by decide, by decide, by decide, rfl, rfl, by decide, rfl, by decide, rfl, rfl⟩

theorem witness_CipherResults :
    (withStream abab).faulted = false ∧ (withStream abab).inq = abab.map Token.byte ++ .eos :: [] ∧
      (3 : BitVec 64) = BitVec.ofNat 64 ((withStream abab).csr.seedHi.toNat * 2 ^ 32 +
        (withStream abab).csr.seedLo.toNat) := by decide +kernel

theorem witness_ArcBeginResult :
    State.reset.faulted = false ∧ State.reset.csr.flags.toNat < 4 ∧ { CsrFile.zero with flags := 3 }.flags.toNat < 4 := by
  decide

/-- An empty file at the smallest ARCH_LEN fits; a block at the greatest ARCH_LEN does not; a code is too long. -/
theorem witness_ArcPutfileResult :
    let s := withArchive 4 5 2 0 [2, 0, 0, 0, 0] (withStream [])
    let full := withArchive 4 0xFFFFFFFF 0 0 [] (withStream [0x61])
    s.faulted = false ∧ statusArcW s.csr.status = true ∧ s.inq = ([] : List Byte).map Token.byte ++ .eos :: [] ∧
      s.csr.hufBlockSize.toNat = 8 ∧ s.csr.hufMaxCodeLen.toNat = 8 ∧ s.csr.arcFlags.getLsbD 1 = true ∧
      s.csr.lzWindow.toNat = 4 ∧ s.csr.lzMaxMatch.toNat = 4 ∧ packFile Params.hw s.pipe [] = .ok [] ∧
      s.csr.archLen.toNat + ([] : List Byte).length ≤ Params.hw.archSize ∧
      packFile Params.hw full.pipe [0x61] = .ok blockOfA ∧
      Params.hw.archSize < full.csr.archLen.toNat + blockOfA.length ∧
      packFile Params.hw (withLimits 8 1 full).pipe [1, 2, 3] = .error .hufCodeTooLong := by
  refine ⟨rfl, rfl, rfl, rfl, rfl, rfl, rfl, rfl, rfl, Nat.le_add_left 5 _ |>.trans (Nat.add_le_add_left (by decide) _), rfl, ?_, rfl⟩
  exact lt_of_lt_of_le hw_valid.archSize_lt (by decide)

/-- An empty tree at the smallest ARCH_LEN fits in the smallest ARCH_MEM; at the greatest ARCH_LEN it does not. -/
theorem witness_ArcPuttreeResult :
    let s := withArchive 4 5 0 0 [0, 0, 0, 0, 0] (withStream [])
    s.faulted = false ∧ statusArcW s.csr.status = true ∧ s.inq = ([] : List Byte).map Token.byte ++ .eos :: [] ∧
      5 ≤ s.csr.archLen.toNat ∧ s.csr.archLen.toNat + 4 + ([] : List Byte).length ≤ Params.hw.archSize ∧
      Params.hw.archSize < (0xFFFFFFFF : Word).toNat + 4 + ([] : List Byte).length :=
  ⟨rfl, rfl, rfl, by decide, Nat.le_add_left 9 _, lt_of_lt_of_le hw_valid.archSize_lt (by decide)⟩

theorem witness_ArcLoadResult :
    (withStream emptyArchive).faulted = false ∧
      (withStream emptyArchive).inq = emptyArchive.map Token.byte ++ .eos :: [] ∧
      emptyArchive.length ≤ Params.hw.archSize ∧
      Params.hw.archSize < (List.replicate (Params.hw.archSize + 1) (0 : Byte)).length :=
  ⟨rfl, rfl, Nat.le_add_left 9 _, by rw [List.length_replicate]; exact Nat.lt_succ_self _⟩

/-- ARCH_LEN 8 and 9; a flags byte of 4; a pointer of 4; one that leaves no room; a length that does not end the
archive; and an archive that opens. -/
theorem witness_ArcOpenResult :
    let s := withArchive 0 9 0 0 emptyArchive State.reset
    s.faulted = false ∧ (8 : Word).toNat < 9 ∧ 9 ≤ s.csr.archLen.toNat ∧ Mem.read s.arch 0 = some 0 ∧
      Mem.readBytes s.arch 1 4 = some [0, 0, 0, 5] ∧ (0 : Byte).toNat < 4 ∧ 4 ≤ (4 : Byte).toNat ∧
      readBE32 [0, 0, 0, 4] < 5 ∧ s.csr.archLen.toNat < readBE32 [0, 0, 0, 6] + 4 ∧
      5 ≤ readBE32 [0, 0, 0, 5] ∧ readBE32 [0, 0, 0, 5] + 4 ≤ s.csr.archLen.toNat ∧
      Mem.readBytes s.arch (readBE32 [0, 0, 0, 5]) 4 = some [0, 0, 0, 0] ∧
      readBE32 [0, 0, 0, 5] + 4 + readBE32 [0, 0, 0, 0] = s.csr.archLen.toNat ∧
      readBE32 [0, 0, 0, 5] + 4 + readBE32 [0, 0, 0, 1] ≠ s.csr.archLen.toNat := by decide +kernel

theorem witness_TreeAndDumpResults :
    let s := withArchive 8 10 0 5 [0, 0, 0, 0, 5, 0, 0, 0, 1, 0xAA] State.reset
    s.faulted = false ∧ statusArcR s.csr.status = true ∧
      Mem.readBytes s.arch s.csr.treePtr.toNat 4 = some [0, 0, 0, 1] ∧
      s.csr.treePtr.toNat + 4 + readBE32 [0, 0, 0, 1] ≤ s.csr.archLen.toNat ∧
      Mem.readBytes s.arch (s.csr.treePtr.toNat + 4) (readBE32 [0, 0, 0, 1]) = some [0xAA] ∧
      Mem.readBytes s.arch 0 s.csr.archLen.toNat = some [0, 0, 0, 0, 5, 0, 0, 0, 1, 0xAA] := by decide +kernel

/-- An opened archive that holds the block of "a" and the range and size of a request. -/
def opened (off len size quota : Word) : State :=
  withArchive 8 22 0 18 ([0, 0, 0, 0, 0x12] ++ blockOfA ++ [0, 0, 0, 0])
    { withTokens [] with
      csr := { (withTokens []).csr with arg0 := off, arg1 := len, arg2 := size, quotaLo := quota } }

/-- Ranges just outside the regions; the whole region with its size, with another one, and with quotas 0 and 1; part
of it, which does not decode; the empty range. -/
theorem witness_ArcGetfileResult :
    (opened 5 13 1 1).faulted = false ∧ statusArcR (opened 5 13 1 1).csr.status = true ∧
      (opened 5 13 1 1).csr.hufMaxCodeLen.toNat = 8 ∧ (opened 5 13 1 1).csr.arcFlags.getLsbD 1 = false ∧
      (opened 4 13 1 1).csr.arg0.toNat < 5 ∧ (opened 5 14 1 1).csr.treePtr.toNat < 5 + 14 ∧
      5 ≤ (opened 5 13 1 0).csr.arg0.toNat ∧ 5 + 13 ≤ (opened 5 13 1 0).csr.treePtr.toNat ∧
      5 + 13 ≤ (opened 5 13 1 0).csr.archLen.toNat ∧
      Mem.readBytes (opened 5 13 1 0).arch 5 13 = some blockOfA ∧
      unpackFile Params.hw (opened 5 13 1 0).pipe blockOfA = .ok ([0x61], [[(0x61, [false])]]) ∧
      unpackFile Params.hw (opened 5 12 1 0).pipe (blockOfA.take 12) = .error .hufTruncated ∧
      unpackFile Params.hw (opened 18 0 0 0).pipe [] = .ok ([], []) ∧
      Mem.readBytes (opened 18 0 0 0).arch 18 0 = some [] ∧
      ([0x61] : List Byte).length = 0 * 2 ^ 32 + 1 ∧ ([0x61] : List Byte).length ≠ 0 * 2 ^ 32 + 2 :=
  ⟨rfl, rfl, rfl, rfl, by decide, by decide, by decide, by decide, by decide, by decide +kernel,
    eq_of_answers (by decide +kernel), eq_of_faults (by decide +kernel), eq_of_answers (by decide +kernel), rfl,
    by decide, by decide⟩

theorem witness_PackingLaws :
    0 < (pack [true]).length ∧ (7 : Nat) < 8 ∧ 2 ^ 32 - 1 < 2 ^ 32 ∧ ([0, 0, 0, 0xFF] : List Byte).length = 4 := by
  decide

theorem witness_BlockPartition : 1 ≤ 3 ∧ 2 < (blocks 3 abab).length := by decide +kernel

theorem witness_HuffmanCodeIsPrefixFree :
    abab ≠ [] ∧ (0x61 : Byte) ≠ 0x62 ∧
      Symtab.lookup (huffBuild .firstOccurrence abab) 0x61 = some [false] ∧
      Symtab.lookup (huffBuild .firstOccurrence abab) 0x62 = some [true] := by decide +kernel

theorem witness_HuffmanCodeLengths :
    syms .firstOccurrence [0x61, 0x61] = [0x61] ∧ 2 ≤ (syms .firstOccurrence abab).length ∧
      (0x61, [false]) ∈ huffBuild .firstOccurrence abab := by decide +kernel

theorem witness_ParsedTablesAreWellFormed :
    parseTable 8 (blockOfA ++ [9]) = .ok ([(0x61, [false])], [0, 0, 0, 1, 7, 0, 9]) ∧
      parseTable 8 ababBlock = .ok (huffBuild .firstOccurrence ababRecords, ababBlock.drop 19) := by decide +kernel

theorem witness_HuffmanRoundTrip :
    ababRecords ≠ [] ∧ ababRecords.length ≤ 2 ^ 27 ∧
      (huffBuild .firstOccurrence ababRecords).all (fun e => decide (e.2.length ≤ 3)) = true ∧
      syms .firstOccurrence [0x61, 0x61] = [0x61] ∧ hufEncodeStream Params.hw 3 8 ababRecords = .ok ababBlock := by decide +kernel

/-- A block that parses, and one that faults otherwise than by running out of bytes. -/
theorem witness_BlockParsingIsDecided :
    parseBlock Params.hw 8 blockOfA = .ok ([(0x61, [false])], [0x61], 13) ∧
      parseBlock Params.hw 8 [0, 0, 0, 0] = .error .hufBadTable := by decide +kernel

theorem witness_LongestNearestMatch :
    bestMatch false abab 4 4 2 = (2, 2) ∧ 0 < (bestMatch false abab 4 4 2).1 ∧ 1 ≤ 1 ∧ 1 ≤ min 2 4 ∧
      1 < (bestMatch false abab 4 4 2).2 ∧ matchLength false abab 2 4 1 < min 4 1 := by decide +kernel

theorem witness_EncodedCopiesAreLegal : LzRecord.copy 2 2 ∈ lzEncode false abab 4 4 := by decide +kernel

theorem witness_LzRoundTrip :
    1 ≤ 4 ∧ 4 ≤ 255 ∧ lzDecodeBytes 4 ababRecords = .ok abab := ⟨by decide, by decide, rfl⟩

/-- A Copy at the greatest distance, of the greatest length; one of length 0; one a byte too far. -/
theorem witness_CopyReplay :
    (2 : Byte) ≠ 0 ∧ (255 : Byte) ≠ 0 ∧ (2 : Byte).toNat ≤ min ([1, 2] : List Byte).length 4 ∧
      min ([1, 2] : List Byte).length 4 < (3 : Byte).toNat := by decide

theorem witness_CipherLaws : abab[7]? = some 0x62 := rfl

/-- A file packed with the cipher off and LZ77 on. -/
theorem witness_PipelineRoundTrip :
    packFile Params.hw ⟨false, true, 0, 8, 8, 4, 4⟩ abab = .ok ababBlock ∧
      packFile Params.hw ⟨true, false, 0, 8, 8, 0, 0⟩ [] = .ok [] := ⟨rfl, rfl⟩

/-- A sound state, from which the step answers one. -/
theorem sound_state : Inv Params.hw { State.reset with port := some 0x00 } where
  bb := ⟨Nat.zero_le _, fun _ => rfl, by decide⟩
  symtab := ⟨rfl, rfl⟩
  status := ⟨rfl, fun _ => rfl, fun h => absurd h (by decide), fun h => absurd h.1 (by decide)⟩
  arch := ⟨rfl, rfl, Nat.zero_le _, fun _ h => absurd h (Nat.not_lt_zero _), by decide, fun h => absurd h (by decide),
    fun _ h => absurd h (by decide)⟩

theorem witness_StepKeepsTheInvariant :
    Inv Params.hw { State.reset with port := some 0x00 } ∧
      step { State.reset with port := some 0x00 } = .next { State.reset with retired := 1 } := ⟨sound_state, rfl⟩

theorem witness_SoundStatesRun : Inv Params.hw { State.reset with port := some 0x00 } := sound_state

end Sys2Proof.Tests
end

/-! PROOFS. Packing, unpacking, filler and the big-endian fields (spec/00_scope.md R10, spec/20_memory.md R63, R64,
spec/40_bitbuffer.md R140, R142, R144). -/

namespace Sys2Proof.Machine

open Sys2Proof

/-! ### A group of bits -/

/-- The byte `acc` holds the bits `pre` of a group: bit i is element i, and the bits above the group are zero (R142). -/
def HoldsGroup (acc : Byte) (pre : Bits) : Prop :=
  ∀ i, i < 8 → acc.getLsbD i = pre.getD i false

theorem holdsGroup_nil : HoldsGroup 0 [] := fun i _ => by simp

/-- The next bit goes to the bit of the group that its number says (R142). -/
theorem HoldsGroup.grow {acc : Byte} {pre : Bits} (h : HoldsGroup acc pre) (b : Bool) :
    HoldsGroup (acc ||| ((if b then 1#8 else 0#8) <<< pre.length)) (pre ++ [b]) := by
  intro i hi
  rw [BitVec.getLsbD_or, h i hi]
  rcases lt_trichotomy i pre.length with below | rfl | above
  · rw [List.getD_append _ _ _ _ below]
    cases b <;> simp [below]
  · cases b <;> simp [hi]
  · have shifted : i - pre.length ≠ 0 := by omega
    rw [List.getD_eq_default _ _ above.le, List.getD_eq_default _ _ (by simpa using above)]
    cases b <;> simp [shifted]

/-! ### Packing -/

theorem packFrom_cons (acc : Byte) (k : Nat) (b : Bool) (bits : Bits) :
    packFrom acc k (b :: bits) =
      if k = 7 then (acc ||| ((if b then 1#8 else 0#8) <<< k)) :: packFrom 0 0 bits
      else packFrom (acc ||| ((if b then 1#8 else 0#8) <<< k)) (k + 1) bits := rfl

theorem packFrom_length (bits : Bits) : ∀ (acc : Byte) (k : Nat), k < 8 →
    (packFrom acc k bits).length = (k + bits.length + 7) / 8 := by
  induction bits with
  | nil =>
    intro acc k hk
    by_cases h0 : k = 0
    · simp [packFrom, h0]
    · simp [packFrom, h0]; omega
  | cons b bits ih =>
    intro acc k hk
    rw [packFrom_cons]
    by_cases h7 : k = 7
    · simp [h7, ih]; omega
    · rw [if_neg h7, ih _ _ (by omega), List.length_cons]; omega

/-- Packing behind a pending group packs the group's bits and the string's as one string (R140, R142). -/
theorem packFrom_getLsbD (bits : Bits) : ∀ (acc : Byte) (pre : Bits), pre.length < 8 → HoldsGroup acc pre →
    ∀ j i, i < 8 → ((packFrom acc pre.length bits).getD j 0).getLsbD i = (pre ++ bits).getD (8 * j + i) false := by
  induction bits with
  | nil =>
    intro acc pre hlen hacc j i hi
    rw [List.append_nil]
    cases j with
    | zero =>
      cases pre with
      | nil => simp [packFrom]
      | cons c pre => simpa [packFrom] using hacc i hi
    | succ j =>
      have beyond : pre.length ≤ 8 * (j + 1) + i := by omega
      rw [List.getD_eq_default _ _ beyond, packFrom]
      split <;> simp
  | cons b bits ih =>
    intro acc pre hlen hacc j i hi
    have grown := hacc.grow b
    have hcons : pre ++ b :: bits = (pre ++ [b]) ++ bits := by simp
    rw [packFrom_cons, hcons]
    by_cases h7 : pre.length = 7
    · rw [if_pos h7]
      have full : (pre ++ [b]).length = 8 := by simp [h7]
      cases j with
      | zero =>
        rw [List.getD_append _ _ _ _ (by omega), List.getD_cons_zero, grown i hi]
        simp
      | succ j =>
        rw [List.getD_append_right _ _ _ _ (by omega), List.getD_cons_succ, full]
        have shift : 8 * (j + 1) + i - 8 = 8 * j + i := by omega
        rw [shift]
        exact ih 0 [] (by decide) holdsGroup_nil j i hi
    · rw [if_neg h7]
      have hlen' : (pre ++ [b]).length = pre.length + 1 := by simp
      rw [← hlen']
      exact ih _ _ (by omega) grown j i hi

/-- A string of n bits packs into ceil(n / 8) bytes (R140). -/
theorem pack_length (bits : Bits) : (pack bits).length = (bits.length + 7) / 8 := by
  rw [pack, packFrom_length bits 0 0 (by decide), Nat.zero_add]

/-- Element 8j + i of a string is bit i of byte j of its packing; past the string's end both are zero (R64, R140). -/
theorem pack_getLsbD (bits : Bits) (j i : Nat) (hi : i < 8) :
    ((pack bits).getD j 0).getLsbD i = bits.getD (8 * j + i) false :=
  packFrom_getLsbD bits 0 [] (by decide) holdsGroup_nil j i hi

/-- The packed bytes hold the string and its filler (R140). -/
theorem eight_mul_pack_length (bits : Bits) : 8 * (pack bits).length = bits.length + filler bits.length := by
  rw [pack_length, filler]; omega

/-! ### Unpacking -/

@[simp] theorem byteBits_length (b : Byte) : (byteBits b).length = 8 := rfl

theorem byteBits_getD (b : Byte) (i : Nat) (hi : i < 8) : (byteBits b).getD i false = b.getLsbD i := by
  interval_cases i <;> rfl

@[simp] theorem unpack_length (bs : List Byte) : (unpack bs).length = 8 * bs.length := by
  induction bs with
  | nil => rfl
  | cons b bs ih => rw [unpack, List.length_append, ih, byteBits_length, List.length_cons]; omega

/-- Bit i of byte j is element 8j + i of the unpacked string (R140). -/
theorem unpack_getD (bs : List Byte) (j i : Nat) (hi : i < 8) :
    (unpack bs).getD (8 * j + i) false = (bs.getD j 0).getLsbD i := by
  induction bs generalizing j with
  | nil => simp [unpack]
  | cons b bs ih =>
    rw [unpack]
    cases j with
    | zero =>
      rw [List.getD_append _ _ _ _ (by rw [byteBits_length]; omega), Nat.mul_zero, Nat.zero_add, byteBits_getD b i hi,
        List.getD_cons_zero]
    | succ j =>
      have shift : 8 * (j + 1) + i - 8 = 8 * j + i := by omega
      rw [List.getD_append_right _ _ _ _ (by rw [byteBits_length]; omega), byteBits_length, shift, ih,
        List.getD_cons_succ]

/-- Unpacking a packing gives every element back, and zeros past the string's end. -/
theorem unpack_pack_getD (bits : Bits) (k : Nat) : (unpack (pack bits)).getD k false = bits.getD k false := by
  have hi : k % 8 < 8 := Nat.mod_lt _ (by decide)
  rw [← Nat.div_add_mod k 8, unpack_getD _ _ _ hi, pack_getLsbD _ _ _ hi]

/-- Packing loses no bit, the inference of R140. -/
theorem unpack_pack_take (bits : Bits) : (unpack (pack bits)).take bits.length = bits := by
  have long : bits.length ≤ (unpack (pack bits)).length := by
    rw [unpack_length, eight_mul_pack_length]; omega
  refine List.ext_getElem (by rw [List.length_take, min_eq_left long]) fun k _ hk => ?_
  have same := unpack_pack_getD bits k
  rw [List.getD_eq_getElem _ _ (hk.trans_le long), List.getD_eq_getElem _ _ hk] at same
  rw [List.getElem_take, same]

/-! ### The four-byte fields -/

/-- The first byte of a four-byte field is its most significant (R10, R63). -/
theorem readBE32_four (b0 b1 b2 b3 : Byte) :
    readBE32 [b0, b1, b2, b3] = b0.toNat * 2 ^ 24 + b1.toNat * 2 ^ 16 + b2.toNat * 2 ^ 8 + b3.toNat := by
  simp only [readBE32, List.foldl_cons, List.foldl_nil]
  omega

/-- A four-byte field holds every number below 2^32 (R10, R63). -/
theorem readBE32_be32 (n : Nat) (hn : n < 2 ^ 32) : readBE32 (be32 n) = n := by
  rw [be32, readBE32_four]
  simp only [BitVec.toNat_ofNat]
  omega

/-- Four bytes are the field of the number they are read as (R10, R63). -/
theorem be32_readBE32 (bs : List Byte) (h : bs.length = 4) : be32 (readBE32 bs) = bs := by
  obtain ⟨b0, b1, b2, b3, rfl⟩ := List.length_eq_four.mp h
  rw [readBE32_four, be32]
  simp only [List.cons.injEq, and_true]
  refine ⟨?_, ?_, ?_, ?_⟩ <;> bv_omega

/-- Settles O45: each clause is a law of `pack`, `unpack`, `filler`, `readBE32` or `be32` above; the packing ones come
from the induction over the string with a pending group (`packFrom_getLsbD`). -/
theorem packingLaws : Obligations.PackingLaws :=
  ⟨fun bits => ⟨pack_length bits, fun j i _ hi => pack_getLsbD bits j i hi, unpack_pack_take bits,
      eight_mul_pack_length bits⟩,
    fun bs => ⟨unpack_length bs, fun j i _ hi => unpack_getD bs j i hi⟩,
    fun _ => rfl, readBE32_four, readBE32_be32, be32_readBE32⟩

end Sys2Proof.Machine

/-! PROOFS. What `exec` can answer, said once for every command (spec/20_memory.md R77, spec/60_exceptions.md R390 to
R395): it is ignored, held, or it runs; and a command that runs completes by one of the paths of its rule, or faults. -/

namespace Sys2Proof.Machine

open Sys2Proof

/-! ### The ends of a command -/

/-- Command `i`, running in `s`, completes without a fault in `u`, but for leaving the port: one constructor for each
path of the commands' rules, with the checks that the path has passed. -/
inductive Completes (s : State) : Instr → State → Prop
  | nop : Completes s .nop s
  | reset : Completes s .reset s.resetBlock
  | csrWr (c : Csr) (v : Word) (writable : c.writable = true) : Completes s (.csrWr c.number v) (s.writeCsr c v)
  | csrRd (c : Csr) : Completes s (.csrRd c.number) (s.withRes0 (s.readCsr c))
  | putByte (v : Byte) (aligned : s.bb.pc = 0) (room : s.bb.full Params.hw = false) :
      Completes s (.bbPutbyte v) (s.withBb { s.bb with q := s.bb.q ++ [v] })
  | putBit (a : Byte) (bit : a.toNat ≤ 1) (more : s.bb.pc ≠ 7) :
      Completes s (.bbPutbit a) (s.withBb { s.bb with pv := s.bb.pv ||| (a <<< s.bb.pc.val), pc := s.bb.pc + 1 })
  | putLastBit (a : Byte) (last : s.bb.pc = 7) (room : s.bb.full Params.hw = false) :
      Completes s (.bbPutbit a)
        (s.withBb { s.bb with q := s.bb.q ++ [s.bb.pv ||| (a <<< s.bb.pc.val)], pv := 0, pc := 0 })
  | flushNothing : Completes s .bbFlush (s.withRes0 0)
  | flush (room : s.bb.full Params.hw = false) :
      Completes s .bbFlush
        ((s.withBb { s.bb with q := s.bb.q ++ [s.bb.pv], pv := 0, pc := 0 }).withRes0 (lowWord s.bb.pc.val))
  | getBit (b : Byte) (rest : List Byte) (head : s.bb.q = b :: rest) (more : s.bb.r ≠ 7) :
      Completes s .bbGetbit
        ((s.withBb { s.bb with r := s.bb.r + 1 }).withRes0 (((b >>> s.bb.r.val) &&& 1#8).setWidth 32))
  | getLastBit (b : Byte) (rest : List Byte) (head : s.bb.q = b :: rest) :
      Completes s .bbGetbit
        ((s.withBb { s.bb with q := rest, r := 0 }).withRes0 (((b >>> s.bb.r.val) &&& 1#8).setWidth 32))
  | getByte (b : Byte) (rest : List Byte) (head : s.bb.q = b :: rest) (unread : s.bb.r = 0) :
      Completes s .bbGetbyte ((s.withBb { s.bb with q := rest }).withRes0 (b.setWidth 32))
  | avail (t : Word) : Completes s (.bbAvail t) (s.withRes0 (if t.toNat < s.bb.bits then 1 else 0))
  | clear : Completes s .bbClear (s.withBb BitBuffer.empty)
  | exhausted (i : Instr) (rest : List Token) (reader : i ∈ [Instr.hufEncblk, .hufDecblk, .lzrecGet])
      (head : s.inq = .eos :: rest) :
      Completes s i ((((s.withInq rest).withRes0 0).withRes1 0).withRes2 1)
  | hufEncblk (maxLen : s.maxCodeLenLegal = true)
      (fits : codeTooLong s.csr.hufMaxCodeLen.toNat (huffBuild Params.hw.leafOrder s.nextBlock) = false) :
      Completes s .hufEncblk
        ((((s.withInq (s.inq.drop s.nextBlock.length)).withSymtab (huffBuild Params.hw.leafOrder s.nextBlock)).pushOut
          (serBlock Params.hw s.nextBlock)).withCounts s.nextBlock.length (serBlock Params.hw s.nextBlock).length 0)
  | hufDecblk (t : Symtab) (ys : List Byte) (n : Nat)
      (parsed : parseBlock Params.hw s.csr.hufMaxCodeLen.toNat (leadingBytes s.inq) = .ok (t, ys, n)) :
      Completes s .hufDecblk
        ((((s.withInq (s.inq.drop n)).withSymtab t).pushOut ys).withCounts n ys.length 0)
  | hufEnc (out : List Byte) (maxLen : s.maxCodeLenLegal = true)
      (encoded : hufEncodeStream Params.hw s.csr.hufMaxCodeLen.toNat s.csr.hufBlockSize.toNat (leadingBytes s.inq) =
        .ok out) :
      Completes s .hufEnc
        ((((s.withInq (afterEos s.inq)).withLastTable
          (lastTable Params.hw s.csr.hufBlockSize.toNat (leadingBytes s.inq))).pushOut out).withCounts
          (leadingBytes s.inq).length out.length (blocks s.csr.hufBlockSize.toNat (leadingBytes s.inq)).length)
  | hufDec (ys : List Byte) (ts : List Symtab)
      (decoded : hufDecodeStream Params.hw s.csr.hufMaxCodeLen.toNat (leadingBytes s.inq) = .ok (ys, ts)) :
      Completes s .hufDec
        ((((s.withInq (afterEos s.inq)).withLastTable ts.getLast?).pushOut ys).withCounts
          (leadingBytes s.inq).length ys.length ts.length)
  | tableRead (sym : Byte) (w len code : Word) :
      Completes s (.hufTblrd sym w) ((s.withRes0 len).withRes1 code)
  | lzEncode (out : List Byte) (n : Nat) :
      Completes s .lzEnc
        (((s.withInq (afterEos s.inq)).pushOut out).withCounts (leadingBytes s.inq).length out.length n)
  | lzDecode (out : List Byte) (n : Nat) :
      Completes s .lzDec
        (((s.withInq (afterEos s.inq)).pushOut out).withCounts (leadingBytes s.inq).length out.length n)
  | recordPut (d : Byte) (imm : Word) : Completes s (.lzrecPut d imm) (s.pushOut [d, imm.setWidth 8])
  | recordGet (b0 b1 : Byte) (rest : List Token) (head : s.inq = .byte b0 :: .byte b1 :: rest) :
      Completes s .lzrecGet ((((s.withInq rest).withRes0 (b0.setWidth 32)).withRes1 (b1.setWidth 32)).withRes2 0)
  | cipher (i : Instr) (out : List Byte) (coder : i ∈ [Instr.ciphEnc, .ciphDec]) :
      Completes s i
        (((s.withInq (afterEos s.inq)).pushOut out).withRes0 (lowWord (leadingBytes s.inq).length))
  | arcBegin (fl : Byte) (two : fl = (s.csr.flags.extractLsb' 0 2).setWidth 8) :
      Completes s .arcBegin
        (((((s.withArch (Mem.writeBytes 0 [fl, 0, 0, 0, 0] s.arch)).withArchLen 5).withArcFlags
          (fl.setWidth 32)).withTreePtr 0).withArcState true false)
  | arcPutfile (region : List Byte) (writing : statusArcW s.csr.status = true) (maxLen : s.maxCodeLenLegal = true)
      (packed : packFile Params.hw s.pipe (leadingBytes s.inq) = .ok region)
      (room : s.csr.archLen.toNat + region.length ≤ Params.hw.archSize) :
      Completes s .arcPutfile
        ((((((s.withInq (afterEos s.inq)).withArch (Mem.writeBytes s.csr.archLen.toNat region s.arch)).withArchLen
          (lowWord (s.csr.archLen.toNat + region.length))).withLastTable
          (lastTable Params.hw s.pipe.blockSize (packStages Params.hw s.pipe (leadingBytes s.inq)))).withCounts
          s.csr.archLen.toNat region.length (leadingBytes s.inq).length).withRes3
          (highWord (leadingBytes s.inq).length))
  | arcPuttree (body : List Byte) (total : Nat) (writing : statusArcW s.csr.status = true)
      (bytes : body = leadingBytes s.inq) (sum : total = s.csr.archLen.toNat + 4 + body.length)
      (room : total ≤ Params.hw.archSize) :
      Completes s .arcPuttree
        (((((((s.withInq (afterEos s.inq)).withArch
          (Mem.writeBytes 1 (be32 s.csr.archLen.toNat)
            (Mem.writeBytes s.csr.archLen.toNat (be32 body.length ++ body) s.arch))).withArchLen
          (lowWord total)).withTreePtr (lowWord s.csr.archLen.toNat)).withStatus
          (statusPutArcW false s.csr.status)).withRes0 (lowWord s.csr.archLen.toNat)).withRes1 (lowWord total))
  | arcLoad (bs : List Byte) (bytes : bs = leadingBytes s.inq) (room : bs.length ≤ Params.hw.archSize) :
      Completes s .arcLoad
        (((((((s.withInq (afterEos s.inq)).withArch (Mem.writeBytes 0 bs s.arch)).withArchLen
          (lowWord bs.length)).withArcFlags 0).withTreePtr 0).withArcState false false).withRes0 (lowWord bs.length))
  | arcOpen (header field : List Byte) (head : s.memRead 0 5 = .ok header)
      (flagBits : (header.headD 0).extractLsb' 2 6 = 0) (behindHeader : 5 ≤ readBE32 (header.drop 1))
      (length : s.memRead (readBE32 (header.drop 1)) 4 = .ok field)
      (framed : readBE32 (header.drop 1) + 4 + readBE32 field = s.csr.archLen.toNat) :
      Completes s .arcOpen
        (((((s.withArcFlags ((header.headD 0).setWidth 32)).withTreePtr (lowWord (readBE32 (header.drop 1)))).withStatus
          (statusPutQexh false (statusPutArcW false (statusPutArcR true s.csr.status)))).withRes0
          (lowWord (readBE32 (header.drop 1) + 4))).withRes1 (lowWord (readBE32 field)))
  | arcGettree (body : List Byte) (v : Word) : Completes s .arcGettree ((s.pushOut body).withRes0 v)
  | arcGetfile (region file : List Byte) (ts : List Symtab)
      (unpacked : unpackFile Params.hw s.pipe region = .ok (file, ts)) :
      Completes s .arcGetfile
        (((((s.afterQuotaWrite (quotaWrite file s.quota)).withLastTable ts.getLast?).withRes0
          (lowWord file.length)).withRes1 (highWord file.length)).withRes2
          (lowWord (quotaWrite file s.quota).written) |>.withRes3 (highWord (quotaWrite file s.quota).written))
  | arcDump (bs : List Byte) : Completes s .arcDump ((s.pushOut bs).withRes0 s.csr.archLen)

/-- Command `i`, running in `s`, ends in `u`, but for leaving the port: it completes, or it faults before (R392) or
after (R393) it has read its input. -/
inductive Ends (s : State) (i : Instr) : State → Prop
  | completes {u : State} (path : Completes s i u) : Ends s i u
  | faults (c : FaultCode) : Ends s i (s.raise c)
  | faultsOpen (c : FaultCode) : Ends s i ((s.raise c).unspecify Params.hw (s.writeRanges Params.hw i))

/-- What the body of command `i` answers in `s`: an end of the command, or a stop of the model (log entries 9, 10). -/
inductive Answers (s : State) (i : Instr) : Result → Prop
  | ends {u : State} (h : Ends s i u) : Answers s i (.next u.retire)
  | stops (f : Fault) : Answers s i (.fault f)

/-- What command `i` answers in `s`: it is ignored (R394), it is held (R77), or it runs. -/
inductive Starts (s : State) (i : Instr) : Result → Prop
  | ignored (faulted : s.faulted = true) (waits : runsWhileFaulted i = false) : Starts s i (.next s.retire)
  | held (h : held Params.hw i s = true) : Starts s i (.next s)
  | runs {r : Result} (started : Machine.held Params.hw i s = false) (answer : Answers s i r) : Starts s i r

namespace Answers

variable {s u : State} {i : Instr}

theorem complete (path : Completes s i u) : Answers s i (complete u) := .ends (.completes path)

theorem fault (c : FaultCode) : Answers s i (faultNoEffect c s) := .ends (.faults c)

theorem faultOpen (c : FaultCode) : Answers s i (faultAfterInput Params.hw c (s.writeRanges Params.hw i) s) :=
  .ends (.faultsOpen c)

theorem withBytes {bytes : Except Fault (List Byte)} {use : List Byte → Result}
    (h : ∀ bs, bytes = .ok bs → Answers s i (use bs)) : Answers s i (withBytes bytes use) := by
  cases bytes with
  | ok bs => exact h bs rfl
  | error f => exact .stops f

end Answers

theorem Starts.of_start {s : State} {i : Instr} {body : State → Result}
    (h : Machine.held Params.hw i s = false → Answers s i (body s)) : Starts s i (start Params.hw i s body) := by
  unfold start
  split
  case isTrue ignored =>
    rw [Bool.and_eq_true, Bool.not_eq_true'] at ignored
    exact .ignored ignored.1 ignored.2
  case isFalse =>
    split
    case isTrue held => exact .held held
    case isFalse started => exact .runs (by simpa using started) (h (by simpa using started))

end Sys2Proof.Machine

namespace Sys2Proof.Machine

open Sys2Proof

/-! ### Every command answers in one of these ways -/

section Commands

variable (s : State)

theorem starts_nop : Starts s .nop (execNop s) := by
  refine .of_start fun _ => ?_
  exact .complete .nop

theorem starts_reset : Starts s .reset (execReset s) := by
  refine .of_start fun _ => ?_
  exact .complete .reset

theorem starts_csrWr (n : Byte) (v : Word) : Starts s (.csrWr n v) (execCsrWr n v s) := by
  refine .of_start fun _ => ?_
  split
  case h_1 => exact .fault _
  case h_2 c named =>
    obtain rfl := number_of_csrOf named
    split
    · exact .complete (.csrWr c v ‹_›)
    · exact .fault _

theorem starts_csrRd (n : Byte) : Starts s (.csrRd n) (execCsrRd n s) := by
  refine .of_start fun _ => ?_
  split
  case h_1 => exact .fault _
  case h_2 c named =>
    obtain rfl := number_of_csrOf named
    exact .complete (.csrRd c)

theorem starts_bbPutbyte (v : Byte) : Starts s (.bbPutbyte v) (bbPutbyte Params.hw v s) := by
  refine .of_start fun _ => ?_
  dsimp only
  split_ifs with mixed full
  · exact .fault _
  · exact .fault _
  · exact .complete (.putByte v (by simpa using mixed) (by simpa using full))

theorem starts_bbPutbit (a : Byte) : Starts s (.bbPutbit a) (bbPutbit Params.hw a s) := by
  refine .of_start fun _ => ?_
  dsimp only
  split_ifs with wide full last
  · exact .fault _
  · exact .fault _
  · exact .complete (.putLastBit a last (by simpa [last] using full))
  · exact .complete (.putBit a (by omega) last)

theorem starts_bbFlush : Starts s .bbFlush (bbFlush Params.hw s) := by
  refine .of_start fun _ => ?_
  dsimp only
  split_ifs with nothing full
  · exact .complete .flushNothing
  · exact .fault _
  · exact .complete (.flush (by simpa using full))

theorem starts_bbGetbit : Starts s .bbGetbit (execBbGetbit s) := by
  refine .of_start fun _ => ?_
  dsimp only
  split
  case h_1 => exact .fault _
  case h_2 b rest head =>
    split_ifs with last
    · exact .complete (.getLastBit b rest head)
    · exact .complete (.getBit b rest head last)

theorem starts_bbGetbyte : Starts s .bbGetbyte (execBbGetbyte s) := by
  refine .of_start fun _ => ?_
  dsimp only
  split
  case h_1 => exact .fault _
  case h_2 b rest head =>
    split_ifs with mixed
    · exact .fault _
    · exact .complete (.getByte b rest head (by simpa using mixed))

theorem starts_bbAvail (t : Word) : Starts s (.bbAvail t) (execBbAvail t s) := by
  refine .of_start fun _ => ?_
  exact .complete (.avail t)

theorem starts_bbClear : Starts s .bbClear (execBbClear s) := by
  refine .of_start fun _ => ?_
  exact .complete .clear

theorem starts_hufEncblk : Starts s .hufEncblk (hufEncblk Params.hw s) := by
  refine .of_start fun _ => ?_
  dsimp only
  split
  case isTrue => exact .fault _
  case isFalse =>
    split
    case isTrue => exact .fault _
    case isFalse maxLen =>
      split
      case h_1 rest head => exact .complete (.exhausted _ rest (by simp) head)
      case h_2 =>
        split_ifs with long
        · exact .faultOpen _
        · exact .complete (.hufEncblk (by simpa using maxLen) (by simpa using long))

theorem starts_hufDecblk : Starts s .hufDecblk (hufDecblk Params.hw s) := by
  refine .of_start fun _ => ?_
  split_ifs with maxLen
  · exact .fault _
  · split
    case h_1 rest head => exact .complete (.exhausted _ rest (by simp) head)
    case h_2 =>
      split
      case h_1 => exact .faultOpen _
      case h_2 t ys n parsed => exact .complete (.hufDecblk t ys n parsed)

theorem starts_hufEnc : Starts s .hufEnc (hufEnc Params.hw s) := by
  refine .of_start fun _ => ?_
  dsimp only
  split_ifs with size maxLen
  · exact .fault _
  · exact .fault _
  · split
    case h_1 => exact .faultOpen _
    case h_2 out encoded => exact .complete (.hufEnc out (by simpa using maxLen) encoded)

theorem starts_hufDec : Starts s .hufDec (hufDec Params.hw s) := by
  refine .of_start fun _ => ?_
  dsimp only
  split_ifs with maxLen
  · exact .fault _
  · split
    case h_1 => exact .faultOpen _
    case h_2 ys ts decoded => exact .complete (.hufDec ys ts decoded)

theorem starts_hufTblrd (sym : Byte) (w : Word) : Starts s (.hufTblrd sym w) (execHufTblrd sym w s) := by
  refine .of_start fun _ => ?_
  split_ifs with word
  · exact .fault _
  · split <;> exact .complete (.tableRead sym w _ _)

theorem starts_lzEnc : Starts s .lzEnc (lzEnc Params.hw s) := by
  refine .of_start fun _ => ?_
  dsimp only
  split_ifs
  · exact .fault _
  · exact .fault _
  · exact .complete (.lzEncode _ _)

theorem starts_lzDec : Starts s .lzDec (lzDec Params.hw s) := by
  refine .of_start fun _ => ?_
  dsimp only
  split_ifs with window
  · exact .fault _
  · split
    · exact .faultOpen _
    · exact .complete (.lzDecode _ _)

theorem starts_lzrecPut (d : Byte) (imm : Word) : Starts s (.lzrecPut d imm) (execLzrecPut d imm s) := by
  refine .of_start fun _ => ?_
  dsimp only
  split_ifs with empty
  · exact .fault _
  · exact .complete (.recordPut d imm)

theorem starts_lzrecGet : Starts s .lzrecGet (lzrecGet Params.hw s) := by
  refine .of_start fun _ => ?_
  split
  case h_1 rest head => exact .complete (.exhausted _ rest (by simp) head)
  case h_2 b0 b1 rest head =>
    split_ifs with empty
    · exact .faultOpen _
    · exact .complete (.recordGet b0 b1 rest head)
  case h_3 => exact .faultOpen _

theorem starts_ciphEnc : Starts s .ciphEnc (ciphEnc Params.hw s) := by
  refine .of_start fun _ => ?_
  exact .complete (.cipher _ _ (by simp))

theorem starts_ciphDec : Starts s .ciphDec (ciphDec Params.hw s) := by
  refine .of_start fun _ => ?_
  exact .complete (.cipher _ _ (by simp))

theorem starts_arcBegin : Starts s .arcBegin (execArcBegin s) := by
  refine .of_start fun _ => ?_
  dsimp only
  split_ifs with flags
  · exact .fault _
  · exact .complete (.arcBegin _ rfl)

/-- A stream that encodes is the serialization of its blocks (R273). -/
theorem hufEncodeStream_eq_ok {p : Params} {maxLen size : Nat} {stream out : List Byte} :
    hufEncodeStream p maxLen size stream = .ok out ↔
      (∀ x ∈ blocks size stream, codeTooLong maxLen (huffBuild p.leafOrder x) = false) ∧
        serStream p size stream = out := by
  unfold hufEncodeStream
  split_ifs with long
  · simp only [false_iff, not_and]
    obtain ⟨x, hx, bad⟩ := List.any_eq_true.mp long
    exact fun fits => absurd (fits x hx) (by simp [bad])
  · simp only [Except.ok.injEq, iff_and_self]
    intro _ x hx
    simpa using fun bad => long (List.any_eq_true.mpr ⟨x, hx, bad⟩)

theorem starts_arcPutfile : Starts s .arcPutfile (arcPutfile Params.hw s) := by
  refine .of_start fun _ => ?_
  dsimp only
  split_ifs with writing config
  · exact .fault _
  · exact .fault _
  · split
    case h_1 => exact .faultOpen _
    case h_2 region packed =>
      split_ifs with full
      · have length : region.length = regionLength Params.hw s.pipe (leadingBytes s.inq) :=
          congrArg List.length (hufEncodeStream_eq_ok.mp packed).2.symm
        rw [length]
        exact .faultOpen .arcFull
      · have maxLen : s.maxCodeLenLegal = true := by
          simp only [State.putfileConfigLegal, Bool.not_eq_true', Bool.not_eq_false, Bool.and_eq_true] at config
          exact config.1.1.2
        exact .complete (.arcPutfile region (by simpa using writing) maxLen packed (Nat.le_of_not_lt full))

theorem starts_arcPuttree : Starts s .arcPuttree (arcPuttree Params.hw s) := by
  refine .of_start fun _ => ?_
  dsimp only
  split_ifs with writing full
  · exact .fault _
  · exact .faultOpen .arcFull
  · exact .complete (.arcPuttree _ _ (by simpa using writing) rfl rfl (Nat.le_of_not_lt full))

theorem starts_arcLoad : Starts s .arcLoad (arcLoad Params.hw s) := by
  refine .of_start fun _ => ?_
  dsimp only
  split_ifs with full
  · exact .faultOpen .arcFull
  · exact .complete (.arcLoad _ rfl (Nat.le_of_not_lt full))

theorem starts_arcOpen : Starts s .arcOpen (execArcOpen s) := by
  refine .of_start fun _ => ?_
  dsimp only
  split_ifs with short
  · exact .fault _
  · refine .withBytes fun header head => ?_
    split_ifs with flagBits range
    · exact .fault _
    · exact .fault _
    · refine .withBytes fun field length => ?_
      split_ifs with framed
      · exact .fault _
      · exact .complete (.arcOpen header field head (not_not.mp flagBits) (by omega) length (not_not.mp framed))

theorem starts_arcGettree : Starts s .arcGettree (execArcGettree s) := by
  refine .of_start fun _ => ?_
  dsimp only
  split_ifs with reading
  · exact .fault _
  · exact .withBytes fun _ _ => .withBytes fun body _ => .complete (.arcGettree body _)

theorem starts_arcGetfile : Starts s .arcGetfile (arcGetfile Params.hw s) := by
  refine .of_start fun _ => ?_
  dsimp only
  split_ifs with reading maxLen window range
  · exact .fault _
  · exact .fault _
  · exact .fault _
  · exact .fault _
  · refine .withBytes fun region _ => ?_
    split
    case h_1 => exact .faultOpen _
    case h_2 file ts unpacked =>
      split_ifs with size
      · exact .faultOpen .arcSizeMismatch
      · exact .complete (.arcGetfile region file ts unpacked)

theorem starts_arcDump : Starts s .arcDump (execArcDump s) := by
  refine .of_start fun _ => ?_
  exact .withBytes fun bs _ => .complete (.arcDump bs)

/-- Every command, from every state, answers in one of the ways of `Starts`. -/
theorem exec_starts (i : Instr) : Starts s i (exec i s) := by
  cases i with
  | nop => exact starts_nop s
  | reset => exact starts_reset s
  | csrWr n v => exact starts_csrWr s n v
  | csrRd n => exact starts_csrRd s n
  | bbPutbyte v => exact starts_bbPutbyte s v
  | bbPutbit a => exact starts_bbPutbit s a
  | bbFlush => exact starts_bbFlush s
  | bbGetbit => exact starts_bbGetbit s
  | bbGetbyte => exact starts_bbGetbyte s
  | bbAvail t => exact starts_bbAvail s t
  | bbClear => exact starts_bbClear s
  | hufEncblk => exact starts_hufEncblk s
  | hufDecblk => exact starts_hufDecblk s
  | hufEnc => exact starts_hufEnc s
  | hufDec => exact starts_hufDec s
  | hufTblrd sym w => exact starts_hufTblrd s sym w
  | lzEnc => exact starts_lzEnc s
  | lzDec => exact starts_lzDec s
  | lzrecPut d imm => exact starts_lzrecPut s d imm
  | lzrecGet => exact starts_lzrecGet s
  | ciphEnc => exact starts_ciphEnc s
  | ciphDec => exact starts_ciphDec s
  | arcBegin => exact starts_arcBegin s
  | arcPutfile => exact starts_arcPutfile s
  | arcPuttree => exact starts_arcPuttree s
  | arcLoad => exact starts_arcLoad s
  | arcOpen => exact starts_arcOpen s
  | arcGettree => exact starts_arcGettree s
  | arcGetfile => exact starts_arcGetfile s
  | arcDump => exact starts_arcDump s

end Commands

/-- All that a next state of `exec` can be. -/
theorem exec_next_cases {i : Instr} {s t : State} (h : exec i s = .next t) :
    (s.faulted = true ∧ runsWhileFaulted i = false ∧ t = s.retire) ∨
      (held Params.hw i s = true ∧ t = s) ∨
      (held Params.hw i s = false ∧ ∃ u, Ends s i u ∧ t = u.retire) := by
  have starts := exec_starts s i
  rw [h] at starts
  cases starts with
  | ignored faulted waits => exact .inl ⟨faulted, waits, rfl⟩
  | held held => exact .inr (.inl ⟨held, rfl⟩)
  | runs started answer =>
    cases answer with
    | ends ends => exact .inr (.inr ⟨started, _, ends, rfl⟩)

end Sys2Proof.Machine

/-! PROOFS. What every command leaves alone: the host's side, the streams but for their ends, and the registers of
other commands (spec/10_state.md R22, R32, R42, R45; spec/20_memory.md R71, R77, R78). -/

namespace Sys2Proof.Machine

open Sys2Proof

section

variable {s u t : State} {i : Instr}

/-! ### The host's actions and the count of commands -/

theorem Completes.hostq_retired (h : Completes s i u) : u.hostq = s.hostq ∧ u.retired = s.retired := by
  cases h <;> simp

theorem Ends.hostq_retired (h : Ends s i u) : u.hostq = s.hostq ∧ u.retired = s.retired := by
  cases h with
  | completes path => exact path.hostq_retired
  | faults c => simp
  | faultsOpen c => simp

/-! ### The streams -/

theorem Completes.outq_append (h : Completes s i u) : ∃ bs, u.outq = s.outq ++ bs := by
  cases h <;> simp

theorem Ends.outq_append (h : Ends s i u) : ∃ bs, u.outq = s.outq ++ bs := by
  cases h with
  | completes path => exact path.outq_append
  | faults c => simp
  | faultsOpen c => simp

/-- `ts'` is `ts` after tokens were taken from its head, no further than the first EOS (R71, R76). -/
def TakesFromHead (ts ts' : List Token) : Prop := ∃ k, k ≤ streamTokens ts ∧ ts' = ts.drop k

theorem TakesFromHead.refl (ts : List Token) : TakesFromHead ts ts := ⟨0, Nat.zero_le _, rfl⟩

theorem TakesFromHead.afterEos (ts : List Token) : TakesFromHead ts (afterEos ts) :=
  ⟨streamTokens ts, Nat.le_refl _, afterEos_eq_drop ts⟩

/-- Fewer tokens than bytes that lead IN do not reach past the first EOS. -/
theorem TakesFromHead.drop {ts : List Token} {n : Nat} (h : n ≤ (leadingBytes ts).length) :
    TakesFromHead ts (ts.drop n) := ⟨n, h.trans (leadingBytes_length_le ts), rfl⟩

theorem TakesFromHead.eos {ts rest : List Token} (h : ts = .eos :: rest) : TakesFromHead ts rest :=
  ⟨1, by rw [h, streamTokens], by rw [h]; rfl⟩

theorem TakesFromHead.record {ts rest : List Token} {b0 b1 : Byte} (h : ts = .byte b0 :: .byte b1 :: rest) :
    TakesFromHead ts rest :=
  ⟨2, by rw [h, streamTokens, streamTokens]; omega, by rw [h]; rfl⟩

/-- A block that parses ends within the bytes given (R272). -/
theorem parseBlock_length_le {p : Params} {maxLen n : Nat} {bs ys : List Byte} {t : Symtab}
    (h : parseBlock p maxLen bs = .ok (t, ys, n)) : n ≤ bs.length := by
  unfold parseBlock at h
  split at h
  case h_1 => cases h
  case h_2 =>
    split at h
    case h_1 => cases h
    case h_2 =>
      split at h
      case h_1 => cases h
      case h_2 => cases h; exact Nat.sub_le _ _

/-- RESET empties IN; every other command takes from its head. -/
theorem Completes.takesFromHead (h : Completes s i u) :
    (i = .reset ∧ u.inq = []) ∨ TakesFromHead s.inq u.inq := by
  cases h with
  | reset => exact .inl ⟨rfl, rfl⟩
  | exhausted _ rest _ head => exact .inr (.eos head)
  | hufEncblk => exact .inr (.drop (List.length_take_le' _ _))
  | hufDecblk t ys n parsed => exact .inr (.drop (parseBlock_length_le parsed))
  | recordGet b0 b1 rest head => exact .inr (.record head)
  | hufEnc | hufDec | arcPutfile => exact .inr (by simpa using .afterEos s.inq)
  | lzEncode | lzDecode | cipher | arcPuttree | arcLoad => exact .inr (.afterEos s.inq)
  | arcGetfile => exact .inr (by simpa using .refl s.inq)
  | _ => exact .inr (.refl s.inq)

theorem Ends.takesFromHead (h : Ends s i u) : (i = .reset ∧ u.inq = []) ∨ TakesFromHead s.inq u.inq := by
  cases h with
  | completes path => exact path.takesFromHead
  | faults c => exact .inr (by simpa using .refl s.inq)
  | faultsOpen c =>
    exact .inr ⟨min (Params.hw.faultTake s.choice) (streamTokens s.inq), Nat.min_le_right _ _, by simp⟩

/-! ### The registers and SYMTAB -/

theorem Completes.symtab_eq (h : Completes s i u) (hw : i.writesSymtab = false) : u.symtab = s.symtab := by
  cases h with
  | reset | hufEncblk | hufDecblk | hufEnc | hufDec | arcPutfile | arcGetfile => exact absurd hw (by decide)
  | _ => rfl

theorem Ends.symtab_eq (h : Ends s i u) (hw : i.writesSymtab = false) : u.symtab = s.symtab := by
  cases h with
  | completes path => exact path.symtab_eq hw
  | faults c => simp
  | faultsOpen c => simp

/-- `g` is `f` in every register that CSR_WR may write, the quota apart (R25 to R31). -/
def CsrFile.SameOperands (f g : CsrFile) : Prop :=
  g = { f with
    status := g.status
    res0 := g.res0
    res1 := g.res1
    res2 := g.res2
    res3 := g.res3
    quotaLo := g.quotaLo
    quotaHi := g.quotaHi
    archLen := g.archLen
    arcFlags := g.arcFlags
    treePtr := g.treePtr }

/-- The operand and configuration registers (R25 to R31). -/
def operandCsrs : List Csr :=
  [.arg0, .arg1, .arg2, .arg3, .hufBlockSize, .hufMaxCodeLen, .lzWindow, .lzMaxMatch, .flags, .seedLo, .seedHi]

theorem CsrFile.SameOperands.readCsr_eq (h : CsrFile.SameOperands s.csr t.csr) {c : Csr} (hc : c ∈ operandCsrs) :
    t.readCsr c = s.readCsr c := by
  simp only [operandCsrs, List.mem_cons, List.not_mem_nil, or_false] at hc
  rcases hc with rfl | rfl | rfl | rfl | rfl | rfl | rfl | rfl | rfl | rfl | rfl <;>
    (simp only [State.readCsr]; rw [h])

/-- Writing one register leaves every other as it is (R21). -/
theorem readCsr_writeCsr_other {c c' : Csr} (v : Word) (h : c' ≠ c) : (s.writeCsr c v).readCsr c' = s.readCsr c' := by
  cases c with
  | status | res0 | res1 | res2 | res3 | archLen | arcFlags | treePtr | bbBits | bbPend | hufNsym => rfl
  | _ => cases c' <;> first | rfl | exact absurd rfl h

/-- The table of the last block replaces SYMTAB, which stays where there was none (R42). -/
theorem State.withLastTable_eq (s : State) (t : Option Symtab) :
    s.withLastTable t = s.withSymtab (t.getD s.symtab) := by cases t <;> rfl

theorem Completes.readCsr_eq (h : Completes s i u) {c : Csr} (hc : c ∈ operandCsrs) (hr : i ≠ .reset)
    (hw : ∀ v, i ≠ .csrWr c.number v) : u.readCsr c = s.readCsr c := by
  cases h with
  | reset => exact absurd rfl hr
  | csrWr c' v => exact readCsr_writeCsr_other v fun same => hw v (same ▸ rfl)
  | hufEnc | hufDec | arcPutfile | arcGetfile =>
    rw [State.withLastTable_eq]
    exact CsrFile.SameOperands.readCsr_eq (by rfl) hc
  | _ => exact CsrFile.SameOperands.readCsr_eq (by rfl) hc

theorem Ends.readCsr_eq (h : Ends s i u) {c : Csr} (hc : c ∈ operandCsrs) (hr : i ≠ .reset)
    (hw : ∀ v, i ≠ .csrWr c.number v) : u.readCsr c = s.readCsr c := by
  cases h with
  | completes path => exact path.readCsr_eq hc hr hw
  | faults c => exact CsrFile.SameOperands.readCsr_eq (by unfold State.raise; split <;> rfl) hc
  | faultsOpen c => exact CsrFile.SameOperands.readCsr_eq (by unfold State.raise; split <;> rfl) hc

/-! ### The quota -/

/-- Only CSR_WR of a quota word, ARC_GETFILE and RESET change the quota (R32). -/
theorem Completes.quota_eq (h : Completes s i u) (hr : i ≠ .reset) (hg : i ≠ .arcGetfile)
    (hw : ∀ c ∈ [Csr.quotaLo, .quotaHi], ∀ v, i ≠ .csrWr c.number v) :
    u.csr.quotaLo = s.csr.quotaLo ∧ u.csr.quotaHi = s.csr.quotaHi := by
  cases h with
  | reset => exact absurd rfl hr
  | arcGetfile => exact absurd rfl hg
  | csrWr c v =>
    have other : ∀ c' ∈ [Csr.quotaLo, .quotaHi], (s.writeCsr c v).readCsr c' = s.readCsr c' := fun c' hc' =>
      readCsr_writeCsr_other v fun same => hw c' hc' v (same ▸ rfl)
    exact ⟨other .quotaLo (by simp), other .quotaHi (by simp)⟩
  | hufEnc | hufDec | arcPutfile => simp
  | _ => exact ⟨rfl, rfl⟩

theorem Ends.quota_eq (h : Ends s i u) (hr : i ≠ .reset) (hg : i ≠ .arcGetfile)
    (hw : ∀ c ∈ [Csr.quotaLo, .quotaHi], ∀ v, i ≠ .csrWr c.number v) :
    u.csr.quotaLo = s.csr.quotaLo ∧ u.csr.quotaHi = s.csr.quotaHi := by
  cases h with
  | completes path => exact path.quota_eq hr hg hw
  | faults c => simp
  | faultsOpen c => simp

/-- What ARC_GETFILE leaves of the quota is no more than it found (R329). -/
theorem State.quota_afterQuotaWrite_le (s : State) (file : List Byte) :
    (s.afterQuotaWrite (quotaWrite file s.quota)).quota ≤ s.quota := by
  have bound : s.quota < 2 ^ 64 := pairNat_lt _ _
  simp only [State.quota, State.afterQuotaWrite_csr_quotaLo, State.afterQuotaWrite_csr_quotaHi, quotaWrite_eq]
  rw [pairNat_words _ (by unfold State.quota at bound; omega)]
  exact Nat.sub_le _ _

theorem State.quota_congr {a b : State} (lo : a.csr.quotaLo = b.csr.quotaLo) (hi : a.csr.quotaHi = b.csr.quotaHi) :
    a.quota = b.quota := by rw [State.quota, lo, hi, State.quota]

theorem Completes.quota_le (h : Completes s i u) (hw : ∀ c ∈ [Csr.quotaLo, .quotaHi], ∀ v, i ≠ .csrWr c.number v) :
    u.quota ≤ s.quota := by
  have same (hr : i ≠ .reset) (hg : i ≠ .arcGetfile) : u.quota = s.quota :=
    have ⟨lo, hi⟩ := h.quota_eq hr hg hw
    State.quota_congr lo hi
  cases h with
  | reset => rw [State.quota]; simp [pairNat, CsrFile.zero]
  | arcGetfile region file =>
    rw [State.quota_congr (b := s.afterQuotaWrite (quotaWrite file s.quota)) (by simp) (by simp)]
    exact s.quota_afterQuotaWrite_le file
  | exhausted i rest reader head => simp [State.quota]
  | cipher i out coder => simp [State.quota]
  | _ => exact (same nofun nofun).le

theorem Ends.quota_le (h : Ends s i u) (hw : ∀ c ∈ [Csr.quotaLo, .quotaHi], ∀ v, i ≠ .csrWr c.number v) :
    u.quota ≤ s.quota := by
  cases h with
  | completes path => exact path.quota_le hw
  | faults c => simp [State.quota]
  | faultsOpen c => simp [State.quota]

end

/-! ### The statements -/

/-- Settles O19: a command that is not held ends in `u.retire`, and no end of a command touches the host's actions or
the count (`Ends.hostq_retired`). -/
theorem commandsAreCountedOnce : Obligations.CommandsAreCountedOnce := by
  intro i s t h
  rcases exec_next_cases h with ⟨faulted, -, rfl⟩ | ⟨held, rfl⟩ | ⟨started, u, ends, rfl⟩
  · exact ⟨rfl, fun held => absurd (faulted_of_held held) (by simp [faulted]), fun _ => ⟨rfl, rfl⟩⟩
  · exact ⟨rfl, fun _ => rfl, fun started => absurd held (by simp [started])⟩
  · obtain ⟨hostq, retired⟩ := ends.hostq_retired
    exact ⟨hostq, fun held => absurd held (by simp [started]), fun _ => ⟨rfl, congrArg (· + 1) retired⟩⟩

/-- Settles O18: every end of a command appends to OUT (`Ends.outq_append`) and takes from the head of IN
(`Ends.takesFromHead`); RESET empties IN. -/
theorem streamsMoveOneWay : Obligations.StreamsMoveOneWay := by
  intro i s t h
  rcases exec_next_cases h with ⟨-, -, rfl⟩ | ⟨-, rfl⟩ | ⟨-, u, ends, rfl⟩
  · exact ⟨⟨[], by simp⟩, 0, rfl, fun _ => Nat.zero_le _⟩
  · exact ⟨⟨[], by simp⟩, 0, rfl, fun _ => Nat.zero_le _⟩
  · refine ⟨ends.outq_append, ?_⟩
    rcases ends.takesFromHead with ⟨hr, emptied⟩ | ⟨k, le, taken⟩
    · exact ⟨s.inq.length, by simp [emptied], fun h => absurd hr h⟩
    · exact ⟨k, taken, fun _ => le⟩

/-- Settles O17: each end of a command that is not a writer of a register, of the quota or of SYMTAB leaves it. -/
theorem registerWriters : Obligations.RegisterWriters := by
  intro i s t h
  rcases exec_next_cases h with ⟨-, -, rfl⟩ | ⟨-, rfl⟩ | ⟨-, u, ends, rfl⟩
  · exact ⟨fun _ => rfl, fun _ _ _ _ => rfl, fun _ => ⟨le_rfl, fun _ _ => ⟨rfl, rfl⟩⟩⟩
  · exact ⟨fun _ => rfl, fun _ _ _ _ => rfl, fun _ => ⟨le_rfl, fun _ _ => ⟨rfl, rfl⟩⟩⟩
  · refine ⟨ends.symtab_eq, fun c hc hr hw => ends.readCsr_eq hc hr hw, fun hw => ?_⟩
    have notQuota : ∀ c ∈ [Csr.quotaLo, .quotaHi], ∀ v, i ≠ .csrWr c.number v := by
      simpa [Csr.number] using ⟨fun v => (hw v).1, fun v => (hw v).2⟩
    exact ⟨ends.quota_le notQuota, fun hg hr => ends.quota_eq hr hg notQuota⟩

end Sys2Proof.Machine

/-! PROOFS. What a command checks before it takes a token (spec/60_exceptions.md R392, R395): an illegal configuration
at use, and an archive command outside its state; and the results of the cipher commands and of ARC_BEGIN. -/

namespace Sys2Proof.Machine

open Sys2Proof

section

variable {s : State} {i : Instr} {c : FaultCode}

/-- A command that answers a fault with no other effect, from a state without a fault, faults as R390 and R392 say. -/
theorem faultsWith_of_exec (hf : s.faulted = false) (h : exec i s = faultNoEffect c s) :
    ∃ t, exec i s = .next t ∧ FaultsWith c s t := ⟨_, h, faultsWith_raise c hf⟩

/-! ### Illegal values at use (R26 to R30) -/

theorem blockSizeLegal_eq_false :
    s.blockSizeLegal = false ↔ s.csr.hufBlockSize.toNat < 1 ∨ 2 ^ 27 < s.csr.hufBlockSize.toNat := by
  simp only [State.blockSizeLegal, Bool.and_eq_false_iff, decide_eq_false_iff_not, not_le]

theorem maxCodeLenLegal_eq_false :
    s.maxCodeLenLegal = false ↔ s.csr.hufMaxCodeLen.toNat < 1 ∨ 255 < s.csr.hufMaxCodeLen.toNat := by
  simp only [State.maxCodeLenLegal, Bool.and_eq_false_iff, decide_eq_false_iff_not, not_le]

theorem windowLegal_eq_false :
    s.windowLegal = false ↔ s.csr.lzWindow.toNat < 1 ∨ 255 < s.csr.lzWindow.toNat := by
  simp only [State.windowLegal, Bool.and_eq_false_iff, decide_eq_false_iff_not, not_le]

theorem maxMatchLegal_eq_false :
    s.maxMatchLegal = false ↔ s.csr.lzMaxMatch.toNat < 1 ∨ 255 < s.csr.lzMaxMatch.toNat := by
  simp only [State.maxMatchLegal, Bool.and_eq_false_iff, decide_eq_false_iff_not, not_le]

/-- FLAGS is legal exactly when it is one of the four values of its two low bits (R30). -/
theorem flagsLegal_iff : s.flagsLegal = true ↔ s.csr.flags.toNat < 4 := by
  have := s.csr.flags.isLt
  rw [State.flagsLegal, beq_iff_eq, ← BitVec.toNat_inj, BitVec.extractLsb'_toNat, Nat.shiftRight_eq_div_pow]
  change s.csr.flags.toNat / 2 ^ 2 % 2 ^ 30 = 0 ↔ _
  omega

theorem putfileConfigLegal_eq_false :
    s.putfileConfigLegal = false ↔
      s.blockSizeLegal = false ∨ s.maxCodeLenLegal = false ∨
        (s.arcLz = true ∧ (s.windowLegal = false ∨ s.maxMatchLegal = false)) := by
  simp only [State.putfileConfigLegal, Bool.and_eq_false_iff, Bool.or_eq_false_iff, Bool.not_eq_false']
  tauto

/-! ### The checks of each command -/

variable (hf : s.faulted = false)
include hf

theorem hufEncblk_badConfig (hi : inputReady Params.hw .hufEncblk s = true)
    (bad : s.blockSizeLegal = false ∨ s.maxCodeLenLegal = false) :
    hufEncblk Params.hw s = faultNoEffect .badConfig s := by
  refine (start_ready (i := .hufEncblk) _ hf hi).trans ?_
  rcases bad with bad | bad <;> simp [bad]

theorem hufDecblk_badConfig (hi : inputReady Params.hw .hufDecblk s = true) (bad : s.maxCodeLenLegal = false) :
    hufDecblk Params.hw s = faultNoEffect .badConfig s := by
  refine (start_ready (i := .hufDecblk) _ hf hi).trans ?_
  simp [bad]

theorem hufEnc_badConfig (hi : hasEos s.inq = true)
    (bad : s.blockSizeLegal = false ∨ s.maxCodeLenLegal = false) :
    hufEnc Params.hw s = faultNoEffect .badConfig s := by
  refine (start_ready (i := .hufEnc) _ hf hi).trans ?_
  rcases bad with bad | bad <;> simp [bad]

theorem hufDec_badConfig (hi : hasEos s.inq = true) (bad : s.maxCodeLenLegal = false) :
    hufDec Params.hw s = faultNoEffect .badConfig s := by
  refine (start_ready (i := .hufDec) _ hf hi).trans ?_
  simp [bad]

theorem lzEnc_badConfig (hi : hasEos s.inq = true) (bad : s.windowLegal = false ∨ s.maxMatchLegal = false) :
    lzEnc Params.hw s = faultNoEffect .badConfig s := by
  refine (start_ready (i := .lzEnc) _ hf hi).trans ?_
  rcases bad with bad | bad <;> simp [bad]

theorem lzDec_badConfig (hi : hasEos s.inq = true) (bad : s.windowLegal = false) :
    lzDec Params.hw s = faultNoEffect .badConfig s := by
  refine (start_ready (i := .lzDec) _ hf hi).trans ?_
  simp [bad]

theorem arcBegin_badConfig (bad : s.flagsLegal = false) : execArcBegin s = faultNoEffect .badConfig s := by
  refine (start_ready (i := .arcBegin) _ hf rfl).trans ?_
  simp [bad]

theorem arcPutfile_badConfig (hi : hasEos s.inq = true) (writing : statusArcW s.csr.status = true)
    (bad : s.putfileConfigLegal = false) : arcPutfile Params.hw s = faultNoEffect .badConfig s := by
  refine (start_ready (i := .arcPutfile) _ hf hi).trans ?_
  simp [writing, bad]

theorem arcGetfile_badConfig (reading : statusArcR s.csr.status = true)
    (bad : s.maxCodeLenLegal = false ∨ (s.arcLz = true ∧ s.windowLegal = false)) :
    arcGetfile Params.hw s = faultNoEffect .badConfig s := by
  refine (start_ready (i := .arcGetfile) _ hf rfl).trans ?_
  rcases bad with bad | ⟨lz, bad⟩
  · simp [reading, bad]
  · simp [reading, lz, bad]

theorem arcPutfile_arcSequence (hi : hasEos s.inq = true) (idle : statusArcW s.csr.status = false) :
    arcPutfile Params.hw s = faultNoEffect .arcSequence s := by
  refine (start_ready (i := .arcPutfile) _ hf hi).trans ?_
  simp [idle]

theorem arcPuttree_arcSequence (hi : hasEos s.inq = true) (idle : statusArcW s.csr.status = false) :
    arcPuttree Params.hw s = faultNoEffect .arcSequence s := by
  refine (start_ready (i := .arcPuttree) _ hf hi).trans ?_
  simp [idle]

theorem arcGettree_arcSequence (closed : statusArcR s.csr.status = false) :
    execArcGettree s = faultNoEffect .arcSequence s := by
  refine (start_ready (i := .arcGettree) _ hf rfl).trans ?_
  simp [closed]

theorem arcGetfile_arcSequence (closed : statusArcR s.csr.status = false) :
    arcGetfile Params.hw s = faultNoEffect .arcSequence s := by
  refine (start_ready (i := .arcGetfile) _ hf rfl).trans ?_
  simp [closed]

end

/-- HUF_DECBLK may start on bytes that `parseBlock` does not run past (R181). -/
theorem blockReady_iff (p : Params) (s : State) :
    blockReady p s = true ↔ hasEos s.inq = true ∨
      parseBlock p s.csr.hufMaxCodeLen.toNat (leadingBytes s.inq) ≠ .error .hufTruncated := by
  unfold blockReady
  rw [Bool.or_eq_true]
  refine or_congr Iff.rfl ?_
  split
  case h_1 truncated => simp [truncated]
  case h_2 other => simpa using other

/-- Settles O13: each command's check is the first thing its body does once the command has started. -/
theorem prechecksFault : Obligations.PrechecksFault := by
  intro s hf
  simp only [← hasEos_iff, ← blockSizeLegal_eq_false, ← maxCodeLenLegal_eq_false, ← windowLegal_eq_false,
    ← maxMatchLegal_eq_false, Bool.not_eq_true]
  refine ⟨fun hi bad => ?_, fun hi bad => ?_, fun hi bad => ?_, fun hi bad => ?_, fun hi bad => ?_, fun hi bad => ?_,
    fun bad => ?_, fun hi writing bad => ?_, fun reading bad => ?_, fun hi idle i mem => ?_, fun closed i mem => ?_⟩ <;>
    refine faultsWith_of_exec hf ?_
  · exact hufEncblk_badConfig hf (by simpa [inputReady] using hi) bad
  · exact hufDecblk_badConfig hf ((blockReady_iff _ s).mpr hi) bad
  · exact hufEnc_badConfig hf hi bad
  · exact hufDec_badConfig hf hi bad
  · exact lzEnc_badConfig hf hi bad
  · exact lzDec_badConfig hf hi bad
  · exact arcBegin_badConfig hf (by rw [← Bool.not_eq_true, flagsLegal_iff]; omega)
  · exact arcPutfile_badConfig hf hi writing (putfileConfigLegal_eq_false.mpr bad)
  · exact arcGetfile_badConfig hf reading bad
  · simp only [List.mem_cons, List.not_mem_nil, or_false] at mem
    rcases mem with rfl | rfl
    · exact arcPutfile_arcSequence hf hi idle
    · exact arcPuttree_arcSequence hf hi idle
  · simp only [List.mem_cons, List.not_mem_nil, or_false] at mem
    rcases mem with rfl | rfl
    · exact arcGettree_arcSequence hf closed
    · exact arcGetfile_arcSequence hf closed

/-! ### The cipher (R300 to R304) -/

/-- Byte k of a stage's output is byte k of its input, shifted by the keystream's byte for it (R301, R302). -/
theorem cipherFrom_eq_mapIdx (shift : Byte → Byte → Byte) (ks : Nat → Byte) (bs : List Byte) : ∀ i : Nat,
    cipherFrom shift ks i bs = bs.mapIdx fun k b => shift b (ks (i + k)) := by
  induction bs with
  | nil => intro i; rfl
  | cons b bs ih =>
    intro i
    rw [cipherFrom, ih, List.mapIdx_cons]
    simp only [Nat.add_assoc, Nat.add_comm 1, Nat.add_zero]

/-- The seed is the number that the pair SEED_HI, SEED_LO holds (R31). -/
theorem State.seed_eq (s : State) :
    s.seed = BitVec.ofNat 64 (s.csr.seedHi.toNat * 2 ^ 32 + s.csr.seedLo.toNat) := by
  apply BitVec.eq_of_toNat_eq
  have := s.csr.seedLo.isLt
  have := s.csr.seedHi.isLt
  rw [State.seed, BitVec.toNat_append, Nat.shiftLeft_eq, BitVec.toNat_ofNat, Nat.mod_eq_of_lt (by omega),
    ← Nat.shiftLeft_eq, Nat.shiftLeft_add_eq_or_of_lt (by omega)]

theorem cipherEnc_eq (p : Params) (seed : BitVec 64) (bs : List Byte) :
    cipherEnc p seed bs = bs.mapIdx fun i b => BitVec.ofNat 8 (b.toNat + (p.ks seed i).toNat) := by
  simp only [cipherEnc, cipherFrom_eq_mapIdx, Nat.zero_add, BitVec.ofNat_add, BitVec.ofNat_toNat, BitVec.setWidth_eq]

theorem cipherDec_eq (p : Params) (seed : BitVec 64) (bs : List Byte) :
    cipherDec p seed bs = bs.mapIdx fun i b => BitVec.ofNat 8 (b.toNat + 256 - (p.ks seed i).toNat) := by
  have shift (b k : Byte) : b - k = BitVec.ofNat 8 (b.toNat + 256 - k.toNat) := by bv_omega
  simp only [cipherDec, cipherFrom_eq_mapIdx, Nat.zero_add, shift]

section

variable {s : State} (hf : s.faulted = false) (eos : hasEos s.inq = true)
include hf eos

theorem ciphEnc_ready :
    ciphEnc Params.hw s = complete (((s.withInq (afterEos s.inq)).pushOut
      (cipherEnc Params.hw s.seed (leadingBytes s.inq))).withRes0 (lowWord (leadingBytes s.inq).length)) :=
  start_ready (i := .ciphEnc) _ hf eos

theorem ciphDec_ready :
    ciphDec Params.hw s = complete (((s.withInq (afterEos s.inq)).pushOut
      (cipherDec Params.hw s.seed (leadingBytes s.inq))).withRes0 (lowWord (leadingBytes s.inq).length)) :=
  start_ready (i := .ciphDec) _ hf eos

end

/-- Settles O37: with a stream in IN the two commands run, and their bytes are those of `cipherEnc_eq` and
`cipherDec_eq`. -/
theorem cipherResults : Obligations.CipherResults := by
  intro s stream rest seed hf hin hseed
  obtain ⟨leading, after, eos⟩ := stream_split stream rest
  rw [← hin] at leading after eos
  rw [← State.seed_eq] at hseed
  subst hseed
  constructor
  · refine (ciphEnc_ready hf eos).trans ?_
    rw [leading, after, cipherEnc_eq]
    rfl
  · refine (ciphDec_ready hf eos).trans ?_
    rw [leading, after, cipherDec_eq]
    rfl

/-! ### ARC_BEGIN (R340) -/

/-- The flags byte is FLAGS, of which only the two low bits may be set (R30, R340). -/
theorem flagsByte_eq {flags : Word} (h : flags.toNat < 4) :
    (flags.extractLsb' 0 2).setWidth 8 = BitVec.ofNat 8 flags.toNat := by
  apply BitVec.eq_of_toNat_eq
  simp only [BitVec.toNat_setWidth, BitVec.extractLsb'_toNat, BitVec.toNat_ofNat, Nat.shiftRight_zero]
  omega

theorem execArcBegin_eq {s : State} (hf : s.faulted = false) (hflags : s.csr.flags.toNat < 4) :
    execArcBegin s = .next (((((s.withArch
      (Mem.writeBytes 0 [BitVec.ofNat 8 s.csr.flags.toNat, 0, 0, 0, 0] s.arch)).withArchLen 5).withArcFlags
      s.csr.flags).withTreePtr 0).withArcState true false).retire := by
  have latched : (BitVec.ofNat 8 s.csr.flags.toNat).setWidth 32 = s.csr.flags := by bv_omega
  refine (start_ready (i := .arcBegin) _ hf rfl).trans ?_
  simp only [flagsLegal_iff.mpr hflags, Bool.not_true, Bool.false_eq_true, if_false, flagsByte_eq hflags, latched,
    complete_eq]

/-- Settles O38: the five bytes are read back by `Mem.read_writeBytes`, and STATUS bit by bit by `statusPut_getLsbD`. -/
theorem arcBeginResult : Obligations.ArcBeginResult := by
  intro s hf hflags
  refine ⟨_, execArcBegin_eq hf hflags, ?_, fun a h1 h5 => ?_, fun a h5 => ?_, fun j => ?_, ?_⟩
  · simp [Mem.read_writeBytes]
  · simp only [State.retire_arch, State.withArcState_arch, State.withTreePtr_arch, State.withArcFlags_arch,
      State.withArchLen_arch, State.withArch_arch, Mem.read_writeBytes]
    rw [if_pos ⟨Nat.zero_le a, by simpa using h5⟩]
    interval_cases a <;> rfl
  · exact Mem.read_writeBytes_outside _ _ (.inr h5)
  · simp only [State.retire_csr, State.withArcState_csr_status, State.withTreePtr_csr_status,
      State.withArcFlags_csr_status, State.withArchLen_csr_status, State.withArch_csr, statusPutArcR, statusPutArcW]
    rw [statusPut_getLsbD _ _ _ _ (by decide), statusPut_getLsbD _ _ _ _ (by decide)]
    by_cases h2 : j = 2 <;> simp [h2]
  · rfl

end Sys2Proof.Machine

/-! PROOFS. The invariant of the block (spec/10_state.md R23, R33, R34, R41, R42; spec/20_memory.md R60, R61;
spec/45_archive.md R331): it holds after power-on reset, and every step keeps it. -/

namespace Sys2Proof.Machine

open Sys2Proof

/-! ### After power-on reset -/

/-- Settles O9: every stored register, every view and every unassigned number reads 0. -/
theorem powerOnState : Obligations.PowerOnState := by
  refine ⟨fun n => ?_, rfl, rfl, rfl, rfl, fun _ => rfl, rfl, rfl⟩
  unfold State.hostRead
  split
  case h_1 c _ => cases c <;> rfl
  case h_2 => rfl

/-- Settles O21: a number names one register (`csrOf_number`); the numbers and the access kinds are the table of R22.
(The name `csrMap` is the model's list.) -/
theorem csrMap_table : Obligations.CsrMap := by
  refine ⟨fun c c' same => ?_, rfl, rfl, rfl, rfl, rfl, rfl, fun c => by cases c <;> decide⟩
  exact Option.some.inj ((csrOf_number c).symm.trans (same ▸ csrOf_number c'))

theorem BitBuffer.sound_empty (p : Params) : BitBuffer.Sound p BitBuffer.empty where
  fits := Nat.zero_le _
  emptyUnread _ := rfl
  pending := Nat.one_pos

theorem Symtab.sound_nil : Symtab.Sound [] := ⟨rfl, rfl⟩

theorem statusSound_zero : StatusSound 0 where
  reserved := rfl
  clean _ := rfl
  coded h := absurd h (by decide)
  exclusive h := absurd h.1 (by decide)

/-- With ARCH_LEN, ARC_FLAGS and STATUS all 0, any memory in canonical form is sound. -/
theorem archSound_of_zero {p : Params} {s : State} (csr : s.csr = CsrFile.zero) (canonical : Mem.wf s.arch = true)
    (within : Mem.within p.archSize s.arch = true) : ArchSound p s where
  canonical := canonical
  within := within
  lengthFits := by rw [csr]; exact Nat.zero_le _
  written a h := by rw [csr] at h; exact absurd h (Nat.not_lt_zero a)
  flagBits := by rw [csr]; decide
  building h := by rw [csr] at h; exact absurd h (by decide)
  opened _ h := by rw [csr] at h; exact absurd h (by decide)

/-- A state whose block has just been reset meets the invariant, whatever ARCH_MEM holds (R381, R430). -/
theorem inv_of_zero {p : Params} {s : State} (csr : s.csr = CsrFile.zero) (bb : s.bb = BitBuffer.empty)
    (symtab : s.symtab = []) (canonical : Mem.wf s.arch = true) (within : Mem.within p.archSize s.arch = true) :
    Inv p s where
  bb := bb ▸ BitBuffer.sound_empty p
  symtab := symtab ▸ Symtab.sound_nil
  status := by rw [csr]; exact statusSound_zero
  arch := archSound_of_zero csr canonical within

/-- Settles O58: the state after power-on reset has every register 0, an empty bit buffer and SYMTAB, and no byte of
ARCH_MEM. -/
theorem resetIsSound : Obligations.ResetIsSound := inv_of_zero rfl rfl rfl rfl rfl

/-! ### What the invariant depends on -/

section

variable {p : Params} {s u : State}

theorem ArchSound.congr (h : ArchSound p s) (arch : u.arch = s.arch) (len : u.csr.archLen = s.csr.archLen)
    (flags : u.csr.arcFlags = s.csr.arcFlags) (ptr : u.csr.treePtr = s.csr.treePtr)
    (arcW : statusArcW u.csr.status = statusArcW s.csr.status)
    (arcR : statusArcR u.csr.status = statusArcR s.csr.status)
    (clean : u.faulted = false → s.faulted = false) : ArchSound p u where
  canonical := arch ▸ h.canonical
  within := arch ▸ h.within
  lengthFits := len ▸ h.lengthFits
  written := by rw [arch, len]; exact h.written
  flagBits := flags ▸ h.flagBits
  building w := by rw [len]; exact h.building (arcW ▸ w)
  opened f r := by rw [State.treeFramed, arch, len, ptr]; exact h.opened (clean f) (arcR ▸ r)

/-- A change that touches none of the bit buffer, SYMTAB, STATUS and the archive keeps the invariant. -/
theorem Inv.frame (h : Inv p s) (bb : u.bb = s.bb := by rfl) (symtab : u.symtab = s.symtab := by rfl)
    (arch : u.arch = s.arch := by rfl) (status : u.csr.status = s.csr.status := by rfl)
    (len : u.csr.archLen = s.csr.archLen := by rfl) (flags : u.csr.arcFlags = s.csr.arcFlags := by rfl)
    (ptr : u.csr.treePtr = s.csr.treePtr := by rfl) : Inv p u where
  bb := bb ▸ h.bb
  symtab := symtab ▸ h.symtab
  status := status ▸ h.status
  arch := h.arch.congr arch len flags ptr (by rw [status]) (by rw [status])
    (by rw [State.faulted, status, State.faulted]; exact id)

theorem Inv.retire (h : Inv p s) : Inv p s.retire := h.frame

theorem Inv.withBb (h : Inv p s) {bb : BitBuffer} (hbb : BitBuffer.Sound p bb) : Inv p (s.withBb bb) where
  bb := hbb
  symtab := h.symtab
  status := h.status
  arch := h.arch.congr rfl rfl rfl rfl rfl rfl id

theorem Inv.withSymtab (h : Inv p s) {t : Symtab} (ht : Symtab.Sound t) : Inv p (s.withSymtab t) where
  bb := h.bb
  symtab := ht
  status := h.status
  arch := h.arch.congr rfl rfl rfl rfl rfl rfl id

/-! ### Faults -/

/-- Fault entry keeps the form of STATUS (R390): FAULT_CODE becomes a code of R391 as FAULT becomes 1. -/
theorem StatusSound.putFault {st : Word} (h : StatusSound st) (c : FaultCode) :
    StatusSound (statusPutFault c.code st) where
  reserved := by rw [reserved_putFault, h.reserved]
  clean f := by simp at f
  coded _ := ⟨c, statusFaultCode_putFault _ _⟩
  exclusive := by simpa using h.exclusive

theorem Inv.raise (h : Inv p s) (c : FaultCode) : Inv p (s.raise c) := by
  unfold State.raise
  split
  case isTrue => exact h
  case isFalse =>
    exact { bb := h.bb, symtab := h.symtab, status := h.status.putFault c
            arch := h.arch.congr rfl rfl rfl rfl (by simp) (by simp) (by simp [State.faulted]) }

/-- What R393 leaves open keeps the invariant once STATUS.FAULT = 1. -/
theorem Inv.unspecify (h : Inv p s) (hf : s.faulted = true) (ranges : List (Nat × Nat)) :
    Inv p (s.unspecify p ranges) := by
  obtain ⟨canonical, within, kept⟩ := Mem.scribbles_sound p s.choice ranges s.arch h.arch.canonical h.arch.within
  exact
    { bb := h.bb
      symtab := h.symtab
      status := h.status
      arch :=
        { canonical := canonical
          within := within
          lengthFits := h.arch.lengthFits
          written := fun a ha => kept a (h.arch.written a ha)
          flagBits := h.arch.flagBits
          building := h.arch.building
          opened := fun clean => absurd hf (by rw [State.faulted] at clean ⊢; simp_all) } }

/-! ### The bit buffer (R141 to R152) -/

section

variable {bb : BitBuffer} (h : BitBuffer.Sound p bb)
include h

/-- A completed byte joins a FIFO that has room. -/
theorem BitBuffer.Sound.push (room : bb.full p = false) (b : Byte) {pv : Byte} {pc : Fin 8}
    (pending : pv.toNat < 2 ^ pc.val) :
    BitBuffer.Sound p { bb with q := bb.q ++ [b], pv := pv, pc := pc } where
  fits := by
    have := h.fits
    have : bb.q.length ≠ p.bbCapacity := by simpa [BitBuffer.full] using room
    simp only [List.length_append, List.length_singleton]
    omega
  emptyUnread empty := by simp at empty
  pending := pending

/-- A bit joins a group that is not its last. -/
theorem BitBuffer.Sound.pend {a : Byte} (bit : a.toNat ≤ 1) (more : bb.pc ≠ 7) :
    BitBuffer.Sound p { bb with pv := bb.pv ||| (a <<< bb.pc.val), pc := bb.pc + 1 } where
  fits := h.fits
  emptyUnread := h.emptyUnread
  pending := by
    have next : (bb.pc + 1).val = bb.pc.val + 1 := Fin.val_add_one_of_lt (Fin.lt_last_iff_ne_last.mpr more)
    have group := h.pending
    simp only [next, BitVec.toNat_or, BitVec.toNat_shiftLeft]
    refine Nat.or_lt_two_pow (group.trans (Nat.pow_lt_pow_succ (by decide))) ?_
    refine (Nat.mod_le _ _).trans_lt ?_
    rw [Nat.shiftLeft_eq, Nat.pow_succ']
    exact Nat.mul_lt_mul_of_pos_right (by omega) (Nat.two_pow_pos _)

/-- The head is read up to its last bit. -/
theorem BitBuffer.Sound.readBit {b : Byte} {rest : List Byte} (head : bb.q = b :: rest) :
    BitBuffer.Sound p { bb with r := bb.r + 1 } where
  fits := h.fits
  emptyUnread empty := absurd empty (by simp [head])
  pending := h.pending

/-- The head leaves the FIFO. -/
theorem BitBuffer.Sound.pop {b : Byte} {rest : List Byte} (head : bb.q = b :: rest) :
    BitBuffer.Sound p { bb with q := rest, r := 0 } where
  fits := by
    have := h.fits
    rw [head, List.length_cons] at this
    exact Nat.le_of_succ_le this
  emptyUnread _ := rfl
  pending := h.pending

end

/-! ### Symbol tables (R42) -/

theorem Symtab.Sound.insert {t : Symtab} (h : Symtab.Sound t) {x : Byte} {code : Bits} (pos : 1 ≤ code.length)
    (le : code.length ≤ 255) : Symtab.Sound (Symtab.insert x code t) where
  sorted := Symtab.sorted_insert x code t h.sorted
  codesFit := by
    have fits := List.all_eq_true.mp h.codesFit
    refine List.all_eq_true.mpr fun e he => ?_
    rcases Symtab.mem_insert he with rfl | he
    · simp [pos, le]
    · exact fits e he

/-- A table built from entries has its symbols in order, and no code but theirs. -/
theorem tableOf_sorted_mem (entries : List (Byte × Bits)) :
    Symtab.sorted (tableOf entries) = true ∧ ∀ e ∈ tableOf entries, e ∈ entries := by
  suffices inserted : ∀ (es : List (Byte × Bits)) (t : Symtab), Symtab.sorted t = true →
      Symtab.sorted (es.foldl (fun t e => Symtab.insert e.1 e.2 t) t) = true ∧
        ∀ e ∈ es.foldl (fun t e => Symtab.insert e.1 e.2 t) t, e ∈ es ∨ e ∈ t by
    have ⟨sorted, mem⟩ := inserted entries [] rfl
    exact ⟨sorted, fun e he => (mem e he).resolve_right List.not_mem_nil⟩
  intro es
  induction es with
  | nil => exact fun t sorted => ⟨sorted, fun _ => .inr⟩
  | cons e es ih =>
    intro t sorted
    obtain ⟨sorted', mem⟩ := ih (Symtab.insert e.1 e.2 t) (Symtab.sorted_insert _ _ _ sorted)
    refine ⟨sorted', fun x hx => ?_⟩
    rcases mem x hx with hx | hx
    · exact .inl (List.mem_cons_of_mem _ hx)
    · exact (Symtab.mem_insert hx).imp (fun same => List.mem_cons.mpr (.inl same)) id

theorem treeCodes_length_le (tree : CodeTree) : ∀ (pre : Bits), ∀ e ∈ treeCodes pre tree, pre.length ≤ e.2.length := by
  induction tree with
  | leaf s => simp [treeCodes]
  | node l r ihl ihr =>
    intro pre e he
    rcases List.mem_append.mp he with he | he
    · exact (by simp : pre.length ≤ (pre ++ [false]).length).trans (ihl _ e he)
    · exact (by simp : pre.length ≤ (pre ++ [true]).length).trans (ihr _ e he)

/-- Below a node every path has at least one step (R173). -/
theorem treeCodes_node_pos (l r : CodeTree) : ∀ e ∈ treeCodes [] (.node l r), 1 ≤ e.2.length := by
  intro e he
  rcases List.mem_append.mp he with he | he
  · exact treeCodes_length_le l _ e he
  · exact treeCodes_length_le r _ e he

theorem mergeNodes_singleton (fuel seq : Nat) (n : QueueNode) : mergeNodes fuel seq [n] = some n.tree := by
  cases fuel <;> rfl

/-- Two nodes or more merge under a node (R172). -/
theorem mergeNodes_eq_node : ∀ (fuel seq : Nat) (n m : QueueNode) (ns : List QueueNode) (tree : CodeTree),
    mergeNodes fuel seq (n :: m :: ns) = some tree → ∃ l r, tree = .node l r
  | 0, _, _, _, _, _, h => nomatch h
  | fuel + 1, seq, n, m, ns, tree, h => by
    rw [mergeNodes] at h
    split at h
    case h_1 => cases h
    case h_2 a o os _ =>
      dsimp only at h
      generalize removeLeast o os = least at h
      obtain ⟨b, others⟩ := least
      cases others with
      | nil =>
        rw [List.nil_append, mergeNodes_singleton] at h
        exact ⟨a.tree, b.tree, (Option.some.inj h).symm⟩
      | cons x rest =>
        cases rest with
        | nil => exact mergeNodes_eq_node fuel (seq + 1) _ _ _ tree h
        | cons y rest => exact mergeNodes_eq_node fuel (seq + 1) _ _ _ tree h

/-- A built table with no code too long is a symbol table (R42, R175, R176). -/
theorem huffBuild_sound {order : LeafOrder} {block : List Byte} {maxLen : Nat} (hmax : maxLen ≤ 255)
    (fits : codeTooLong maxLen (huffBuild order block) = false) : Symtab.Sound (huffBuild order block) := by
  have built : Symtab.sorted (huffBuild order block) = true ∧ ∀ e ∈ huffBuild order block, 1 ≤ e.2.length := by
    unfold huffBuild
    split
    case h_1 => exact ⟨rfl, by simp⟩
    case h_2 => exact ⟨rfl, by simp⟩
    case h_3 s s' ss _ =>
      dsimp only
      split
      case h_1 tree merged =>
        obtain ⟨l, r, rfl⟩ := mergeNodes_eq_node _ _ _ _ _ _ merged
        obtain ⟨sorted, mem⟩ := tableOf_sorted_mem (treeCodes [] (.node l r))
        exact ⟨sorted, fun e he => treeCodes_node_pos l r e (mem e he)⟩
      case h_2 => exact ⟨rfl, by simp⟩
  refine ⟨built.1, List.all_eq_true.mpr fun e he => ?_⟩
  have le : e.2.length ≤ maxLen := by simpa using List.any_eq_false.mp fits e he
  simp [built.2 e he, le.trans hmax]

/-- The table of a stream's last block, where the stream encodes (R182, R341). -/
theorem lastTable_sound {p : Params} {maxLen size : Nat} {stream out : List Byte} (hmax : maxLen ≤ 255)
    (encoded : hufEncodeStream p maxLen size stream = .ok out) :
    ∀ t ∈ lastTable p size stream, Symtab.Sound t := by
  intro t ht
  obtain ⟨x, last, rfl⟩ := Option.map_eq_some_iff.mp ht
  exact huffBuild_sound hmax ((hufEncodeStream_eq_ok.mp encoded).1 x (List.mem_of_getLast? last))

/-- Records that parse add codes of 1 to 255 bits (R268). -/
theorem parseRecords_sound (maxLen : Nat) : ∀ (fuel : Nat) (bs : List Byte) (t t' : Symtab), Symtab.Sound t →
    parseRecords maxLen fuel bs t = .ok t' → Symtab.Sound t'
  | _, [], t, t', ht, h => by
    rw [parseRecords] at h
    cases h
    exact ht
  | 0, _ :: _, _, _, _, h => nomatch h
  | _ + 1, [_], _, _, _, h => nomatch h
  | fuel + 1, s :: l :: rest, t, t', ht, h => by
    rw [parseRecords] at h
    split_ifs at h with range short known
    refine parseRecords_sound maxLen fuel _ _ t' (ht.insert ?_ ?_) h <;>
      rw [List.length_take, unpack_length, List.length_take]
    · unfold ceil8 at *
      omega
    · have := l.isLt
      omega

theorem parseTable_sound {maxLen : Nat} {bs rest : List Byte} {t : Symtab}
    (h : parseTable maxLen bs = .ok (t, rest)) : Symtab.Sound t := by
  unfold parseTable at h
  dsimp only at h
  split_ifs at h
  split at h
  case h_1 => cases h
  case h_2 t' parsed =>
    split_ifs at h
    cases h
    exact parseRecords_sound _ _ _ _ _ Symtab.sound_nil parsed

theorem parseBlock_sound {maxLen n : Nat} {bs ys : List Byte} {t : Symtab}
    (h : parseBlock p maxLen bs = .ok (t, ys, n)) : Symtab.Sound t := by
  unfold parseBlock at h
  split at h
  case h_1 => cases h
  case h_2 t' rest table =>
    split at h
    case h_1 => cases h
    case h_2 =>
      split at h
      case h_1 => cases h
      case h_2 => cases h; exact parseTable_sound table

theorem hufDecodeFuel_sound (maxLen : Nat) : ∀ (fuel : Nat) (bs ys : List Byte) (ts : List Symtab),
    hufDecodeFuel p maxLen fuel bs = .ok (ys, ts) → ∀ t ∈ ts, Symtab.Sound t
  | _, [], ys, ts, h => by
    rw [hufDecodeFuel] at h
    cases h
    exact fun t ht => absurd ht List.not_mem_nil
  | 0, _ :: _, _, _, h => nomatch h
  | fuel + 1, b :: bs, ys, ts, h => by
    rw [hufDecodeFuel] at h
    split at h
    case h_1 => cases h
    case h_2 t y n block =>
      split at h
      case h_1 => cases h
      case h_2 zs ts' rest =>
        cases h
        exact List.forall_mem_cons.mpr ⟨parseBlock_sound block, hufDecodeFuel_sound maxLen fuel _ zs ts' rest⟩

theorem unpackFile_sound {c : PipeConfig} {region file : List Byte} {ts : List Symtab}
    (h : unpackFile p c region = .ok (file, ts)) : ∀ t ∈ ts, Symtab.Sound t := by
  unfold unpackFile at h
  split at h
  case h_1 => cases h
  case h_2 s2 ts' decoded =>
    split at h
    case h_1 => cases h
    case h_2 => cases h; exact hufDecodeFuel_sound _ _ _ _ _ decoded

/-- SYMTAB stays, or becomes the last of sound tables. -/
theorem Inv.withLastTable (h : Inv p s) {t : Option Symtab} (ht : ∀ x ∈ t, Symtab.Sound x) :
    Inv p (s.withLastTable t) := by
  cases t with
  | none => exact h
  | some x => exact h.withSymtab (ht x rfl)

end

end Sys2Proof.Machine

/-! PROOFS. The archive commands keep the invariant (spec/45_archive.md R340 to R346), and with them every command and
every step. -/

namespace Sys2Proof.Machine

open Sys2Proof

section

variable {p : Params} {s u : State} {i : Instr}

/-! ### STATUS -/

/-- A write of QEXH, ARC_W or ARC_R keeps the form of STATUS, unless it sets both of the last two (R23). -/
theorem StatusSound.of_flags {st st' : Word} (h : StatusSound st)
    (reserved : st' &&& 0xFFFF00F0#32 = st &&& 0xFFFF00F0#32) (fault : statusFault st' = statusFault st)
    (code : statusFaultCode st' = statusFaultCode st)
    (exclusive : ¬(statusArcW st' = true ∧ statusArcR st' = true)) : StatusSound st' where
  reserved := reserved.trans h.reserved
  clean f := code.trans (h.clean (fault ▸ f))
  coded f := by rw [code]; exact h.coded (fault ▸ f)
  exclusive := exclusive

/-! ### The bytes below ARCH_LEN -/

/-- A length inside the address space fits its register (R8, R33). -/
theorem lowWord_toNat_of_le (hp : p.Valid) {n : Nat} (h : n ≤ p.archSize) : (lowWord n).toNat = n := by
  rw [lowWord_toNat, Nat.mod_eq_of_lt (h.trans_lt hp.archSize_lt)]

/-- A byte has been written after a write that covers it, or that found it written. -/
theorem Mem.isSome_writeBytes {x a : Nat} {bs : List Byte} {m : Mem}
    (h : (x ≤ a ∧ a < x + bs.length) ∨ (Mem.read m a).isSome = true) :
    (Mem.read (Mem.writeBytes x bs m) a).isSome = true := by
  rw [Mem.read_writeBytes]
  split_ifs with covered
  · rw [List.getElem?_eq_getElem (by omega)]
    rfl
  · exact h.resolve_left covered

/-! ### Each archive command -/

theorem Inv.arcBegin (hp : p.Valid) (h : Inv p s) {fl : Byte} (two : fl.toNat < 4) :
    Inv p (((((s.withArch (Mem.writeBytes 0 [fl, 0, 0, 0, 0] s.arch)).withArchLen 5).withArcFlags
      (fl.setWidth 32)).withTreePtr 0).withArcState true false) where
  bb := h.bb
  symtab := h.symtab
  status := h.status.of_flags (by simp) (by simp) (by simp) (by simp)
  arch :=
    { canonical := Mem.wf_writeBytes _ _ _ h.arch.canonical
      within := Mem.within_writeBytes _ _ _ (Nat.le_trans (by simp) hp.archSize_ge) h.arch.within
      lengthFits := Nat.le_trans (by simp) hp.archSize_ge
      written := fun a ha => Mem.isSome_writeBytes (.inl ⟨Nat.zero_le a, by simpa using ha⟩)
      flagBits := by
        change (fl.setWidth 32).toNat < 4
        rw [BitVec.toNat_setWidth]
        exact (Nat.mod_le _ _).trans_lt two
      building := fun _ => by simp
      opened := fun _ reading => by simp at reading }

/-- A region appended while an archive is being built (R341). -/
theorem Inv.appendRegion (hp : p.Valid) (h : Inv p s) (writing : statusArcW s.csr.status = true)
    {region : List Byte} (room : s.csr.archLen.toNat + region.length ≤ p.archSize) :
    Inv p ((s.withArch (Mem.writeBytes s.csr.archLen.toNat region s.arch)).withArchLen
      (lowWord (s.csr.archLen.toNat + region.length))) where
  bb := h.bb
  symtab := h.symtab
  status := h.status
  arch :=
    { canonical := Mem.wf_writeBytes _ _ _ h.arch.canonical
      within := Mem.within_writeBytes _ _ _ room h.arch.within
      lengthFits := by simpa [lowWord_toNat_of_le hp room] using room
      written := fun a ha => by
        simp only [State.withArchLen_csr_archLen, lowWord_toNat_of_le hp room] at ha
        refine Mem.isSome_writeBytes ?_
        by_cases below : a < s.csr.archLen.toNat
        · exact .inr (h.arch.written a below)
        · exact .inl ⟨Nat.le_of_not_lt below, ha⟩
      flagBits := h.arch.flagBits
      building := fun w => by
        have := h.arch.building w
        simp only [State.withArchLen_csr_archLen, lowWord_toNat_of_le hp room]
        omega
      opened := fun _ reading => absurd ⟨writing, reading⟩ h.status.exclusive }

/-- The tree region appended, its pointer patched in and the build closed (R342). -/
theorem Inv.arcPuttree (hp : p.Valid) (h : Inv p s) (writing : statusArcW s.csr.status = true) {body : List Byte}
    {total : Nat} (sum : total = s.csr.archLen.toNat + 4 + body.length) (room : total ≤ p.archSize) (ptr : Word) :
    Inv p ((((s.withArch (Mem.writeBytes 1 (be32 s.csr.archLen.toNat)
      (Mem.writeBytes s.csr.archLen.toNat (be32 body.length ++ body) s.arch))).withArchLen
      (lowWord total)).withTreePtr ptr).withStatus (statusPutArcW false s.csr.status)) where
  bb := h.bb
  symtab := h.symtab
  status := h.status.of_flags (by simp) (by simp) (by simp) (by simp)
  arch :=
    { canonical := Mem.wf_writeBytes _ _ _ (Mem.wf_writeBytes _ _ _ h.arch.canonical)
      within := Mem.within_writeBytes _ _ _ (Nat.le_trans (by simp [be32]) hp.archSize_ge)
        (Mem.within_writeBytes _ _ _ (by simp only [List.length_append, be32, List.length_cons, List.length_nil]; omega)
          h.arch.within)
      lengthFits := by simpa [lowWord_toNat_of_le hp room] using room
      written := fun a ha => by
        simp only [State.withStatus_csr_archLen, State.withTreePtr_csr_archLen, State.withArchLen_csr_archLen,
          lowWord_toNat_of_le hp room] at ha
        refine Mem.isSome_writeBytes (.inr (Mem.isSome_writeBytes ?_))
        by_cases below : a < s.csr.archLen.toNat
        · exact .inr (h.arch.written a below)
        · refine .inl ⟨Nat.le_of_not_lt below, ?_⟩
          simp only [List.length_append, be32, List.length_cons, List.length_nil]
          omega
      flagBits := h.arch.flagBits
      building := fun w => by simp at w
      opened := fun _ reading => by
        simp only [State.withStatus_csr_status, statusArcR_putArcW] at reading
        exact absurd ⟨writing, reading⟩ h.status.exclusive }

theorem Inv.arcLoad (hp : p.Valid) (h : Inv p s) {bs : List Byte} (room : bs.length ≤ p.archSize) :
    Inv p (((((s.withArch (Mem.writeBytes 0 bs s.arch)).withArchLen (lowWord bs.length)).withArcFlags 0).withTreePtr
      0).withArcState false false) where
  bb := h.bb
  symtab := h.symtab
  status := h.status.of_flags (by simp) (by simp) (by simp) (by simp)
  arch :=
    { canonical := Mem.wf_writeBytes _ _ _ h.arch.canonical
      within := Mem.within_writeBytes _ _ _ (by simpa using room) h.arch.within
      lengthFits := by simpa [lowWord_toNat_of_le hp room] using room
      written := fun a ha => Mem.isSome_writeBytes (.inl ⟨Nat.zero_le a, by
        simpa [lowWord_toNat_of_le hp room] using ha⟩)
      flagBits := by simp
      building := fun w => by simp at w
      opened := fun _ reading => by simp at reading }

/-- What ARC_OPEN has checked is the framing that the invariant asks of an opened archive (R344). -/
theorem Inv.arcOpen (h : Inv p s) {fl : Byte} {tree : Nat} {field : List Byte} (flagBits : fl.extractLsb' 2 6 = 0)
    (behindHeader : 5 ≤ tree) (length : s.memRead tree 4 = .ok field)
    (framed : tree + 4 + readBE32 field = s.csr.archLen.toNat) :
    Inv p (((s.withArcFlags (fl.setWidth 32)).withTreePtr (lowWord tree)).withStatus
      (statusPutQexh false (statusPutArcW false (statusPutArcR true s.csr.status)))) where
  bb := h.bb
  symtab := h.symtab
  status := h.status.of_flags (by simp) (by simp) (by simp) (by simp)
  arch :=
    { canonical := h.arch.canonical
      within := h.arch.within
      lengthFits := h.arch.lengthFits
      written := h.arch.written
      flagBits := by
        have two := congrArg BitVec.toNat flagBits
        rw [BitVec.extractLsb'_toNat, Nat.shiftRight_eq_div_pow] at two
        change fl.toNat / 2 ^ 2 % 2 ^ 6 = 0 at two
        have := fl.isLt
        change (fl.setWidth 32).toNat < 4
        rw [BitVec.toNat_setWidth]
        omega
      building := fun w => by simp at w
      opened := fun _ _ => by
        have := s.csr.archLen.isLt
        have ptr : (lowWord tree).toNat = tree := by rw [lowWord_toNat]; omega
        rw [State.treeFramed, State.withStatus_csr_treePtr, State.withTreePtr_csr_treePtr, ptr]
        exact ⟨behindHeader, field, (memRead_eq_ok.mp length).2, framed⟩ }

theorem Inv.afterQuotaWrite (h : Inv p s) (w : QuotaWrite) : Inv p (s.afterQuotaWrite w) := by
  unfold State.afterQuotaWrite
  split
  case isFalse => exact h.frame
  case isTrue =>
    exact
      { bb := h.bb
        symtab := h.symtab
        status := h.status.of_flags (by simp) (by simp) (by simp) (by simpa using h.status.exclusive)
        arch := h.arch.congr rfl rfl rfl rfl (by simp) (by simp) (by simp [State.faulted]) }

/-! ### Every command and every step -/

/-- CSR_WR reaches none of the registers that the invariant speaks of (R22). -/
theorem Inv.writeCsr (h : Inv p s) (c : Csr) (v : Word) : Inv p (s.writeCsr c v) := by
  cases c <;> exact h.frame

theorem maxCodeLen_le (h : s.maxCodeLenLegal = true) : s.csr.hufMaxCodeLen.toNat ≤ 255 := by
  simp only [State.maxCodeLenLegal, Bool.and_eq_true, decide_eq_true_iff] at h
  exact h.2

theorem Completes.inv (path : Completes s i u) (h : Inv Params.hw s) : Inv Params.hw u := by
  cases path with
  | reset => exact inv_of_zero rfl rfl rfl h.arch.canonical h.arch.within
  | csrWr c v => exact h.writeCsr c v
  | putByte v aligned room => exact h.withBb (h.bb.push room v h.bb.pending)
  | putBit a bit more => exact h.withBb (h.bb.pend bit more)
  | putLastBit a last room => exact h.withBb (h.bb.push room _ Nat.one_pos)
  | flush room =>
    exact (h.withBb (h.bb.push room _ (pv := 0) (pc := 0) Nat.one_pos)).frame
  | getBit b rest head => exact (h.withBb (h.bb.readBit head)).frame
  | getLastBit b rest head => exact (h.withBb (h.bb.pop head)).frame
  | getByte b rest head unread =>
    exact (h.withBb (h.bb.pop head)).frame (bb := by simp [unread])
  | clear => exact h.withBb (BitBuffer.sound_empty _)
  | hufEncblk maxLen fits =>
    exact (h.withSymtab (huffBuild_sound (maxCodeLen_le maxLen) fits)).frame
  | hufDecblk t ys n parsed => exact (h.withSymtab (parseBlock_sound parsed)).frame
  | hufEnc out maxLen encoded =>
    have taken : Inv Params.hw (s.withInq (afterEos s.inq)) := h.frame
    exact (taken.withLastTable (lastTable_sound (maxCodeLen_le maxLen) encoded)).frame
  | hufDec ys ts decoded =>
    have taken : Inv Params.hw (s.withInq (afterEos s.inq)) := h.frame
    exact (taken.withLastTable fun t last => hufDecodeFuel_sound _ _ _ _ _ decoded t
      (List.mem_of_getLast? last)).frame
  | arcBegin fl two =>
    refine h.arcBegin hw_valid ?_
    rw [two, BitVec.toNat_setWidth]
    exact (Nat.mod_le _ _).trans_lt (BitVec.isLt _)
  | arcPutfile region writing maxLen packed room =>
    have taken : Inv Params.hw (s.withInq (afterEos s.inq)) := h.frame
    exact ((taken.appendRegion hw_valid writing room).withLastTable
      (lastTable_sound (maxCodeLen_le maxLen) packed)).frame
  | arcPuttree body total writing bytes sum room =>
    exact (h.arcPuttree hw_valid writing sum room (lowWord s.csr.archLen.toNat)).frame
  | arcLoad bs bytes room => exact (h.arcLoad hw_valid room).frame
  | arcOpen header field head flagBits behindHeader length framed =>
    exact (h.arcOpen flagBits behindHeader length framed).frame
  | arcGetfile region file ts unpacked =>
    exact ((h.afterQuotaWrite _).withLastTable fun t last => unpackFile_sound unpacked t
      (List.mem_of_getLast? last)).frame
  | _ => exact h.frame

theorem Ends.inv (ends : Ends s i u) (h : Inv Params.hw s) : Inv Params.hw u := by
  cases ends with
  | completes path => exact path.inv h
  | faults c => exact h.raise c
  | faultsOpen c => exact (h.raise c).unspecify (State.raise_faulted s c) _

theorem exec_inv {t : State} (h : Inv Params.hw s) (run : exec i s = .next t) : Inv Params.hw t := by
  rcases exec_next_cases run with ⟨-, -, rfl⟩ | ⟨-, rfl⟩ | ⟨-, u, ends, rfl⟩
  · exact h.retire
  · exact h
  · exact (ends.inv h).retire

/-- The host reaches the streams, the port and, by power-on reset, the whole block (R62, R430). -/
theorem hostAct_inv (h : Inv p s) : Inv p s.hostAct := by
  rcases hostAct_cases s with ⟨-, act⟩ | ⟨w, rest, -, -, act⟩ | ⟨w, rest, -, -, act⟩ | ⟨ts, rest, -, act⟩ |
    ⟨n, rest, -, act⟩ | ⟨rest, -, act⟩ <;> rw [act]
  · exact h
  · exact h.frame
  · exact h
  · exact h.frame
  · exact h.frame
  · exact inv_of_zero rfl rfl rfl rfl rfl

/-- A step is the host's next action, the command on the port, or the fault of a word that is no command. -/
theorem step_next_cases {t : State} (h : step s = .next t) :
    t = s.hostAct ∨ (∃ i, exec i s = .next t) ∨ t = (s.raise .illegalCmd).retire := by
  unfold step at h
  split at h
  case h_1 => exact .inl (Host.Outcome.next.inj h).symm
  case h_2 w _ =>
    split at h
    case isTrue => exact .inl (Host.Outcome.next.inj h).symm
    case isFalse =>
      split at h
      case h_1 i _ => exact .inr (.inl ⟨i, h⟩)
      case h_2 => exact .inr (.inr (Host.Outcome.next.inj h).symm)

end

/-- Settles O59: the host's actions (`hostAct_inv`), every command (`exec_inv`) and fault entry (`Inv.raise`) keep the
invariant. -/
theorem stepKeepsTheInvariant : Obligations.StepKeepsTheInvariant := by
  intro s t h run
  rcases step_next_cases run with rfl | ⟨i, run⟩ | rfl
  · exact hostAct_inv h
  · exact exec_inv h run
  · exact (h.raise _).retire

end Sys2Proof.Machine

/-! PROOFS. The command port and the host (spec/20_memory.md R62, R68, R77, R78): what a step runs, what holds a
command, and what lifts a hold. -/

namespace Sys2Proof.Machine

open Sys2Proof

section

variable {s : State} {i : Instr} {w : CommandWord}

/-! ### What a step is -/

theorem heldWord_of_decode (decoded : decode w = .ok i) : heldWord Params.hw w s = held Params.hw i s := by
  simp [heldWord, decoded]

/-- With no command on the port the step is the host's next action (R62). -/
theorem step_of_idle (idle : s.port = none) : step s = .next s.hostAct := by
  simp [step, idle]

/-- With a held command on the port the step is the host's next action (R77). -/
theorem step_of_held (port : s.port = some w) (decoded : decode w = .ok i) (waits : held Params.hw i s = true) :
    step s = .next s.hostAct := by
  simp [step, port, heldWord_of_decode decoded, waits]

/-- Settles O5: the word on the port is not held, so the step is `exec` of what it decodes to. -/
theorem stepRunsTheDecodedCommand : Obligations.StepRunsTheDecodedCommand := by
  intro s w i port decoded started
  simp [step, port, heldWord_of_decode decoded, started, decoded]

/-! ### Waiting for input -/

/-- A held command answers the state it was given (R77): of the ways of `Starts`, the others are not held. -/
theorem exec_held (waits : held Params.hw i s = true) : exec i s = .next s := by
  have starts := exec_starts s i
  generalize exec i s = r at starts ⊢
  cases starts with
  | ignored faulted => exact absurd (faulted_of_held waits) (by simp [faulted])
  | held => rfl
  | runs started => exact absurd waits (by simp [started])

theorem held_of_lacking (clean : s.faulted = false) (lacks : inputReady Params.hw i s = false) :
    held Params.hw i s = true := by
  simp [held, clean, lacks]

/-- An EOS is input enough for every command (R77). -/
theorem inputReady_of_hasEos (eos : hasEos s.inq = true) : inputReady Params.hw i s = true := by
  cases i with
  | hufDecblk => exact (blockReady_iff _ _).mpr (.inl eos)
  | hufEncblk | lzrecGet => simp [inputReady, eos]
  | hufEnc | hufDec | lzEnc | lzDec | ciphEnc | ciphDec | arcPutfile | arcPuttree | arcLoad => exact eos
  | _ => rfl

/-- No more tokens stand up to the first EOS than stand in IN. -/
theorem streamTokens_le_length : ∀ ts : List Token, streamTokens ts ≤ ts.length
  | [] => Nat.le_refl 0
  | .eos :: _ => Nat.succ_le_succ (Nat.zero_le _)
  | .byte _ :: ts => Nat.succ_le_succ (streamTokens_le_length ts)

end

/-- Settles O7: without an EOS each of these commands lacks its input, whatever its configuration, and so is held
(`exec_held`). -/
theorem heldCommandChangesNothing : Obligations.HeldCommandChangesNothing := by
  intro s clean noEos
  have lacksEos : hasEos s.inq = false := by rwa [← Bool.not_eq_true, hasEos_iff]
  have waits {i : Instr} (lacks : inputReady Params.hw i s = false) : exec i s = .next s :=
    exec_held (held_of_lacking clean lacks)
  refine ⟨fun i mem => waits ?_, fun short => waits ?_, fun truncated => waits ?_, fun short => waits ?_⟩
  · simp only [List.mem_cons, List.not_mem_nil, or_false] at mem
    rcases mem with rfl | rfl | rfl | rfl | rfl | rfl | rfl | rfl | rfl <;> exact lacksEos
  · have bytes := (leadingBytes_length_le s.inq).trans (streamTokens_le_length s.inq)
    simpa [inputReady, lacksEos] using bytes.trans_lt short
  · rw [← Bool.not_eq_true]
    exact fun ready => ((blockReady_iff _ s).mp ready).elim (by simp [lacksEos]) (absurd truncated)
  · simpa [inputReady, lacksEos] using short

/-! ### The host's actions -/

/-- Settles O8: the step is `hostAct`, whose equation for each action is the action; and an EOS that is appended is
input enough for every command. -/
theorem hostActsWhileTheBlockWaits : Obligations.HostActsWhileTheBlockWaits := by
  intro s waits
  have acts : step s = .next s.hostAct := by
    rcases waits with idle | ⟨w, i, port, decoded, waits⟩
    · exact step_of_idle idle
    · exact step_of_held port decoded waits
  rw [acts]
  refine ⟨fun none => ?_, fun w rest next idle => ?_, fun w rest next busy => ?_, fun ts rest next => ⟨?_, ?_⟩,
    fun n rest next => ?_, fun rest next => ?_⟩
  · simp [State.hostAct, none]
  · simp [State.hostAct, next, idle]
  · cases port : s.port with
    | none => exact absurd port busy
    | some => simp [State.hostAct, next, port]
  · simp [State.hostAct, next]
  · intro eos i
    exact held_of_ready (inputReady_of_hasEos ((hasEos_iff _).mpr (List.mem_append_right _ eos)))
  · simp [State.hostAct, next]
  · simp [State.hostAct, next, State.powerOn]

end Sys2Proof.Machine

/-! PROOFS. Which commands write ARCH_MEM, and where (spec/20_memory.md R61, spec/60_exceptions.md R393). -/

namespace Sys2Proof.Machine

open Sys2Proof

section

variable {s u : State} {i : Instr}

theorem Completes.arch_eq (h : Completes s i u) (hw : i.writesArch = false) : u.arch = s.arch := by
  cases h with
  | arcBegin | arcPutfile | arcPuttree | arcLoad => exact absurd hw (by decide)
  | hufEnc | hufDec | arcGetfile => simp
  | _ => rfl

/-- A command that does not write ARCH_MEM has no write range (R61). -/
theorem State.writeRanges_eq_nil (hw : i.writesArch = false) : s.writeRanges Params.hw i = [] := by
  cases i with
  | arcBegin | arcPutfile | arcPuttree | arcLoad => exact absurd hw (by decide)
  | _ => rfl

theorem Ends.arch_eq (h : Ends s i u) (hw : i.writesArch = false) : u.arch = s.arch := by
  cases h with
  | completes path => exact path.arch_eq hw
  | faults c => simp
  | faultsOpen c => simp [State.writeRanges_eq_nil hw]

/-- Each of the four writers leaves every byte outside its ranges as it was (R340 to R343). -/
theorem Completes.read_outside (h : Completes s i u) {a : Nat}
    (outside : ∀ r ∈ s.writeRanges Params.hw i, a < r.1 ∨ r.1 + r.2 ≤ a) :
    Mem.read u.arch a = Mem.read s.arch a := by
  have kept := h.arch_eq
  cases h with
  | arcBegin fl => exact Mem.read_writeBytes_outside _ _ (outside (0, 5) List.mem_cons_self)
  | arcPutfile region writing maxLen packed =>
    have length : regionLength Params.hw s.pipe (leadingBytes s.inq) = region.length :=
      congrArg List.length (hufEncodeStream_eq_ok.mp packed).2
    have beyond := outside _ List.mem_cons_self
    rw [length] at beyond
    simpa using Mem.read_writeBytes_outside region s.arch beyond
  | arcPuttree body total writing bytes =>
    subst bytes
    have beyond := outside _ List.mem_cons_self
    have header := outside (1, 4) (List.mem_cons_of_mem _ List.mem_cons_self)
    refine (Mem.read_writeBytes_outside _ _ header).trans (Mem.read_writeBytes_outside _ _ ?_)
    rwa [List.length_append]
  | arcLoad bs bytes =>
    subst bytes
    exact Mem.read_writeBytes_outside _ _ (outside _ List.mem_cons_self)
  | exhausted | cipher => rfl
  | _ => rw [kept rfl]

theorem Ends.read_outside (h : Ends s i u) {a : Nat}
    (outside : ∀ r ∈ s.writeRanges Params.hw i, a < r.1 ∨ r.1 + r.2 ≤ a) :
    Mem.read u.arch a = Mem.read s.arch a := by
  cases h with
  | completes path => exact path.read_outside outside
  | faults c => rw [State.raise_arch]
  | faultsOpen c => simpa using Mem.read_scribbles_outside Params.hw s.choice a _ s.arch outside

end

/-- Settles O15: every end of a command that is no writer leaves ARCH_MEM (`Ends.arch_eq`), and every end of a writer
the bytes outside its ranges (`Ends.read_outside`). -/
theorem archMemWriters : Obligations.ArchMemWriters := by
  intro i s t run
  rcases exec_next_cases run with ⟨-, -, rfl⟩ | ⟨-, rfl⟩ | ⟨-, u, ends, rfl⟩
  · exact ⟨fun _ => rfl, fun _ _ => rfl⟩
  · exact ⟨fun _ => rfl, fun _ _ => rfl⟩
  · exact ⟨ends.arch_eq, fun _ outside => ends.read_outside outside⟩

end Sys2Proof.Machine

/-! PROOFS. Which bytes of ARCH_MEM a command reads, and what follows (spec/20_memory.md R61): no command depends on a
byte at or above ARCH_LEN, and from a sound state no read stops the model (spec/70_reset_and_hazards.md R431). -/

namespace Sys2Proof.Machine

open Sys2Proof

/-! ### What a command reads -/

/-- `m` holds what ARCH_MEM holds at every address below ARCH_LEN (R33). -/
def State.SameBelowLen (s : State) (m : Mem) : Prop :=
  ∀ a, a < s.csr.archLen.toNat → Mem.read m a = Mem.read s.arch a

/-- The (address, length) ranges of ARCH_MEM that command `i` reads from `s`, one constructor for each read of R344 to
R347, with the checks that it has passed. -/
inductive ReadsArch (s : State) : Instr → Nat → Nat → Prop
  | header (long : 9 ≤ s.csr.archLen.toNat) : ReadsArch s .arcOpen 0 5
  | headerTree (tree : Nat) (room : tree + 4 ≤ s.csr.archLen.toNat) : ReadsArch s .arcOpen tree 4
  | treeLength (clean : s.faulted = false) (reading : statusArcR s.csr.status = true) :
      ReadsArch s .arcGettree s.csr.treePtr.toNat 4
  | treeBody (clean : s.faulted = false) (reading : statusArcR s.csr.status = true) (field : List Byte)
      (length : s.memRead s.csr.treePtr.toNat 4 = .ok field) :
      ReadsArch s .arcGettree (s.csr.treePtr.toNat + 4) (readBE32 field)
  | region (clean : s.faulted = false) (reading : statusArcR s.csr.status = true)
      (range : s.csr.arg0.toNat + s.csr.arg1.toNat ≤ s.csr.treePtr.toNat) :
      ReadsArch s .arcGetfile s.csr.arg0.toNat s.csr.arg1.toNat
  | dump : ReadsArch s .arcDump 0 s.csr.archLen.toNat

/-- Two answers to command `i`, from `s` and from a state that differs from `s` at or above ARCH_LEN: next states that
differ at or above the new ARCH_LEN, or the same stop, of a read that the command makes. -/
inductive AlikeBelowLen (s : State) (i : Instr) : Result → Result → Prop
  | next {t : State} {m : Mem} (same : t.SameBelowLen m) : AlikeBelowLen s i (.next t) (.next (t.withArch m))
  | stops {f : Fault} {a n : Nat} (reads : ReadsArch s i a n) (stop : s.memRead a n = .error f) :
      AlikeBelowLen s i (.fault f) (.fault f)

/-- A read of ARCH_MEM does not see the bytes at or above ARCH_LEN (R61). -/
theorem memRead_withArch {s : State} {m : Mem} (same : s.SameBelowLen m) (a n : Nat) :
    (s.withArch m).memRead a n = s.memRead a n := by
  by_cases below : a + n ≤ s.csr.archLen.toNat
  · have bytes : Mem.readBytes m a n = Mem.readBytes s.arch a n :=
      Mem.readBytes_congr fun k hk => same (a + k) (by omega)
    simp [State.memRead, bytes]
  · simp [State.memRead, below]

/-- Bytes written in both memories agree, and so does whatever agreed before. -/
theorem Mem.read_writeBytes_congr {m m' : Mem} {a : Nat} (x : Nat) (bs : List Byte)
    (same : ¬(x ≤ a ∧ a < x + bs.length) → Mem.read m a = Mem.read m' a) :
    Mem.read (Mem.writeBytes x bs m) a = Mem.read (Mem.writeBytes x bs m') a := by
  simp only [Mem.read_writeBytes]
  split_ifs with covered
  · rfl
  · exact same covered

theorem Mem.read_scribbles_congr (p : Params) (n : Nat) {a : Nat} : ∀ (rs : List (Nat × Nat)) {m m' : Mem},
    Mem.read m a = Mem.read m' a →
      Mem.read (rs.foldl (fun m r => scribble p n r.1 r.2 m) m) a =
        Mem.read (rs.foldl (fun m r => scribble p n r.1 r.2 m) m') a
  | [], _, _, same => same
  | r :: rs, _, _, same => Mem.read_scribbles_congr p n rs (Mem.read_writeBytes_congr r.1 _ fun _ => same)

theorem State.raise_withArch (s : State) (m : Mem) (c : FaultCode) :
    (s.withArch m).raise c = (s.raise c).withArch m := by
  cases faulted : s.faulted
  · rw [State.raise_of_clean s c faulted]
    exact State.raise_of_clean _ c faulted
  · rw [State.raise_of_faulted s c faulted]
    exact State.raise_of_faulted _ c faulted

/-! ### What does not depend on ARCH_MEM -/

/-- Whether a command waits does not depend on ARCH_MEM (R77). -/
theorem held_withArch (s : State) (m : Mem) (i : Instr) : held Params.hw i (s.withArch m) = held Params.hw i s := by
  cases i <;> rfl

theorem readCsr_withArch (s : State) (m : Mem) (c : Csr) : (s.withArch m).readCsr c = s.readCsr c := by
  cases c <;> rfl

theorem pipe_withArch (s : State) (m : Mem) : (s.withArch m).pipe = s.pipe := rfl

theorem archLen_writeCsr (s : State) (c : Csr) (v : Word) : (s.writeCsr c v).csr.archLen = s.csr.archLen := by
  cases c <;> rfl

namespace AlikeBelowLen

section

variable {s u : State} {i : Instr} {m : Mem}

theorem complete (same : u.SameBelowLen m) : AlikeBelowLen s i (complete u) (complete (u.withArch m)) :=
  .next (t := u.retire) same

/-- Both runs take the same branch of a check that does not read ARCH_MEM. -/
theorem branch {c : Prop} {d d' : Decidable c} {yes yes' no no' : Result} (hyes : c → AlikeBelowLen s i yes yes')
    (hno : ¬c → AlikeBelowLen s i no no') : AlikeBelowLen s i (@ite _ c d yes no) (@ite _ c d' yes' no') := by
  rw [Subsingleton.elim d' d]
  split
  case isTrue holds => exact hyes holds
  case isFalse fails => exact hno fails

variable (same : s.SameBelowLen m)
include same

theorem fault (c : FaultCode) : AlikeBelowLen s i (faultNoEffect c s) (faultNoEffect c (s.withArch m)) := by
  rw [faultNoEffect, faultNoEffect, State.raise_withArch]
  exact .complete (by simpa [State.SameBelowLen] using same)

theorem faultOpen (p : Params) (c : FaultCode) (ranges : List (Nat × Nat)) :
    AlikeBelowLen s i (faultAfterInput p c ranges s) (faultAfterInput p c ranges (s.withArch m)) := by
  rw [faultAfterInput, faultAfterInput, State.raise_withArch]
  refine .complete (u := (s.raise c).unspecify p ranges) fun a below => ?_
  simp only [State.unspecify_csr_archLen, State.raise_csr_archLen] at below
  simpa using Mem.read_scribbles_congr p s.choice ranges (same a below)

theorem withBytes {a n : Nat} {use use' : List Byte → Result} (reads : ReadsArch s i a n)
    (h : ∀ bs, s.memRead a n = .ok bs → AlikeBelowLen s i (use bs) (use' bs)) :
    AlikeBelowLen s i (withBytes (s.memRead a n) use) (withBytes ((s.withArch m).memRead a n) use') := by
  rw [memRead_withArch same]
  cases read : s.memRead a n with
  | ok bs => exact h bs read
  | error f => exact .stops reads read

theorem start {body : State → Result}
    (h : s.faulted = false ∨ runsWhileFaulted i = true → AlikeBelowLen s i (body s) (body (s.withArch m))) :
    AlikeBelowLen s i (start Params.hw i s body) (start Params.hw i (s.withArch m) body) := by
  unfold Machine.start
  rw [held_withArch]
  refine .branch (fun _ => .complete same) fun ignored => .branch (fun _ => .next same) fun _ => h ?_
  cases faulted : s.faulted
  · exact .inl rfl
  · exact .inr (by simpa [faulted] using ignored)

end

end AlikeBelowLen

/-! ### Every command answers alike -/

section Commands

variable {s : State} {m : Mem} (same : s.SameBelowLen m)
include same

theorem alike_nop : AlikeBelowLen s .nop (execNop s) (execNop (s.withArch m)) := by
  refine .start same fun _ => ?_
  exact .complete same

theorem alike_reset : AlikeBelowLen s .reset (execReset s) (execReset (s.withArch m)) := by
  refine .start same fun _ => ?_
  exact .complete (u := s.resetBlock) fun a below => absurd below (Nat.not_lt_zero a)

theorem alike_csrWr (n : Byte) (v : Word) :
    AlikeBelowLen s (.csrWr n v) (execCsrWr n v s) (execCsrWr n v (s.withArch m)) := by
  refine .start same fun _ => ?_
  split
  · exact .fault same _
  · refine .branch (fun _ => ?_) fun _ => .fault same _
    exact .complete (u := s.writeCsr _ v) fun a below => same a (by rwa [archLen_writeCsr] at below)

theorem alike_csrRd (n : Byte) : AlikeBelowLen s (.csrRd n) (execCsrRd n s) (execCsrRd n (s.withArch m)) := by
  refine .start same fun _ => ?_
  split
  · exact .fault same _
  · rw [readCsr_withArch]
    exact .complete same

theorem alike_bbPutbyte (v : Byte) :
    AlikeBelowLen s (.bbPutbyte v) (bbPutbyte Params.hw v s) (bbPutbyte Params.hw v (s.withArch m)) := by
  refine .start same fun _ => ?_
  exact .branch (fun _ => .fault same _) fun _ => .branch (fun _ => .fault same _) fun _ => .complete same

theorem alike_bbPutbit (b : Byte) :
    AlikeBelowLen s (.bbPutbit b) (bbPutbit Params.hw b s) (bbPutbit Params.hw b (s.withArch m)) := by
  refine .start same fun _ => ?_
  refine .branch (fun _ => .fault same _) fun _ => .branch (fun _ => .fault same _) fun _ => ?_
  exact .branch (fun _ => .complete same) fun _ => .complete same

theorem alike_bbFlush : AlikeBelowLen s .bbFlush (bbFlush Params.hw s) (bbFlush Params.hw (s.withArch m)) := by
  refine .start same fun _ => ?_
  exact .branch (fun _ => .complete same) fun _ => .branch (fun _ => .fault same _) fun _ => .complete same

theorem alike_bbGetbit : AlikeBelowLen s .bbGetbit (execBbGetbit s) (execBbGetbit (s.withArch m)) := by
  refine .start same fun _ => ?_
  dsimp only [State.withArch_bb]
  split
  · exact .fault same _
  · exact .branch (fun _ => .complete same) fun _ => .complete same

theorem alike_bbGetbyte : AlikeBelowLen s .bbGetbyte (execBbGetbyte s) (execBbGetbyte (s.withArch m)) := by
  refine .start same fun _ => ?_
  dsimp only [State.withArch_bb]
  split
  · exact .fault same _
  · exact .branch (fun _ => .fault same _) fun _ => .complete same

theorem alike_bbAvail (t : Word) :
    AlikeBelowLen s (.bbAvail t) (execBbAvail t s) (execBbAvail t (s.withArch m)) := by
  refine .start same fun _ => ?_
  exact .complete same

theorem alike_bbClear : AlikeBelowLen s .bbClear (execBbClear s) (execBbClear (s.withArch m)) := by
  refine .start same fun _ => ?_
  exact .complete same

theorem alike_hufEncblk :
    AlikeBelowLen s .hufEncblk (hufEncblk Params.hw s) (hufEncblk Params.hw (s.withArch m)) := by
  refine .start same fun _ => .branch (fun _ => .fault same _) fun _ => .branch (fun _ => .fault same _) fun _ => ?_
  dsimp only [State.withArch_inq]
  split
  · exact .complete same
  · exact .branch (fun _ => .faultOpen same _ _ _) fun _ => .complete same

theorem alike_hufDecblk :
    AlikeBelowLen s .hufDecblk (hufDecblk Params.hw s) (hufDecblk Params.hw (s.withArch m)) := by
  refine .start same fun _ => .branch (fun _ => .fault same _) fun _ => ?_
  dsimp only [State.withArch_inq, State.withArch_csr]
  split
  · exact .complete same
  · split
    · exact .faultOpen same _ _ _
    · exact .complete same

theorem alike_hufEnc : AlikeBelowLen s .hufEnc (hufEnc Params.hw s) (hufEnc Params.hw (s.withArch m)) := by
  refine .start same fun _ => .branch (fun _ => .fault same _) fun _ => .branch (fun _ => .fault same _) fun _ => ?_
  simp only [State.withArch_inq, State.withArch_csr, State.withLastTable_eq]
  split
  · exact .faultOpen same _ _ _
  · exact .complete same

theorem alike_hufDec : AlikeBelowLen s .hufDec (hufDec Params.hw s) (hufDec Params.hw (s.withArch m)) := by
  refine .start same fun _ => .branch (fun _ => .fault same _) fun _ => ?_
  simp only [State.withArch_inq, State.withArch_csr, State.withLastTable_eq]
  split
  · exact .faultOpen same _ _ _
  · exact .complete same

theorem alike_hufTblrd (sym : Byte) (w : Word) :
    AlikeBelowLen s (.hufTblrd sym w) (execHufTblrd sym w s) (execHufTblrd sym w (s.withArch m)) := by
  refine .start same fun _ => .branch (fun _ => .fault same _) fun _ => ?_
  dsimp only [State.withArch_symtab]
  split
  · exact .complete same
  · exact .complete same

theorem alike_lzEnc : AlikeBelowLen s .lzEnc (lzEnc Params.hw s) (lzEnc Params.hw (s.withArch m)) := by
  refine .start same fun _ => ?_
  exact .branch (fun _ => .fault same _) fun _ => .branch (fun _ => .fault same _) fun _ => .complete same

theorem alike_lzDec : AlikeBelowLen s .lzDec (lzDec Params.hw s) (lzDec Params.hw (s.withArch m)) := by
  refine .start same fun _ => .branch (fun _ => .fault same _) fun _ => ?_
  dsimp only [State.withArch_inq, State.withArch_csr]
  split
  · exact .faultOpen same _ _ _
  · exact .complete same

theorem alike_lzrecPut (d : Byte) (imm : Word) :
    AlikeBelowLen s (.lzrecPut d imm) (execLzrecPut d imm s) (execLzrecPut d imm (s.withArch m)) := by
  refine .start same fun _ => ?_
  exact .branch (fun _ => .fault same _) fun _ => .complete same

theorem alike_lzrecGet : AlikeBelowLen s .lzrecGet (lzrecGet Params.hw s) (lzrecGet Params.hw (s.withArch m)) := by
  refine .start same fun _ => ?_
  dsimp only [State.withArch_inq]
  split
  · exact .complete same
  · exact .branch (fun _ => .faultOpen same _ _ _) fun _ => .complete same
  · exact .faultOpen same _ _ _

theorem alike_ciphEnc : AlikeBelowLen s .ciphEnc (ciphEnc Params.hw s) (ciphEnc Params.hw (s.withArch m)) := by
  refine .start same fun _ => ?_
  exact .complete same

theorem alike_ciphDec : AlikeBelowLen s .ciphDec (ciphDec Params.hw s) (ciphDec Params.hw (s.withArch m)) := by
  refine .start same fun _ => ?_
  exact .complete same

/-- ARC_BEGIN writes every byte below the new ARCH_LEN (R340). -/
theorem alike_arcBegin : AlikeBelowLen s .arcBegin (execArcBegin s) (execArcBegin (s.withArch m)) := by
  refine .start same fun _ => .branch (fun _ => .fault same _) fun _ => ?_
  refine .complete fun a below => Mem.read_writeBytes_congr 0 _ fun outside => absurd ⟨Nat.zero_le a, ?_⟩ outside
  simpa using below

/-- ARC_PUTFILE writes every byte from the old ARCH_LEN to the new one (R341). -/
theorem alike_arcPutfile :
    AlikeBelowLen s .arcPutfile (arcPutfile Params.hw s) (arcPutfile Params.hw (s.withArch m)) := by
  refine .start same fun _ => .branch (fun _ => .fault same _) fun _ => .branch (fun _ => .fault same _) fun _ => ?_
  simp only [State.withArch_inq, State.withArch_csr, State.withLastTable_eq, pipe_withArch]
  split
  · exact .faultOpen same _ _ _
  · refine .branch (fun _ => .faultOpen same _ _ _) fun full => ?_
    have len := lowWord_toNat_of_le hw_valid (Nat.le_of_not_lt full)
    refine .complete fun a below => Mem.read_writeBytes_congr _ _ fun outside => same a ?_
    have upTo := below.trans_eq len
    omega

/-- ARC_PUTTREE writes every byte from the old ARCH_LEN to the new one, and four bytes of the header (R342). -/
theorem alike_arcPuttree :
    AlikeBelowLen s .arcPuttree (arcPuttree Params.hw s) (arcPuttree Params.hw (s.withArch m)) := by
  refine .start same fun _ => .branch (fun _ => .fault same _) fun _ => ?_
  refine .branch (fun _ => .faultOpen same _ _ _) fun full => ?_
  have len := lowWord_toNat_of_le hw_valid (Nat.le_of_not_lt full)
  refine .complete fun a below => Mem.read_writeBytes_congr _ _ fun _ =>
    Mem.read_writeBytes_congr _ _ fun outside => same a ?_
  have upTo := below.trans_eq len
  simp only [State.withArch_csr, State.withArch_inq, List.length_append, be32, List.length_cons,
    List.length_nil] at outside
  omega

/-- ARC_LOAD writes every byte below the new ARCH_LEN (R343). -/
theorem alike_arcLoad : AlikeBelowLen s .arcLoad (arcLoad Params.hw s) (arcLoad Params.hw (s.withArch m)) := by
  refine .start same fun _ => .branch (fun _ => .faultOpen same _ _ _) fun full => ?_
  have len := lowWord_toNat_of_le hw_valid (Nat.le_of_not_lt full)
  refine .complete fun a below => Mem.read_writeBytes_congr _ _ fun outside => absurd ⟨Nat.zero_le a, ?_⟩ outside
  simpa [len] using below

theorem alike_arcOpen : AlikeBelowLen s .arcOpen (execArcOpen s) (execArcOpen (s.withArch m)) := by
  refine .start same fun _ => .branch (fun _ => .fault same _) fun long => ?_
  refine .withBytes same (.header (Nat.le_of_not_lt long)) fun header _ => .branch (fun _ => .fault same _) fun _ => ?_
  refine .branch (fun _ => .fault same _) fun range => ?_
  refine .withBytes same (.headerTree _ (Nat.le_of_not_lt fun beyond => range (.inr beyond))) fun field _ => ?_
  exact .branch (fun _ => .fault same _) fun _ => .complete same

theorem alike_arcGettree : AlikeBelowLen s .arcGettree (execArcGettree s) (execArcGettree (s.withArch m)) := by
  refine .start same fun runs => .branch (fun _ => .fault same _) fun closed => ?_
  have clean : s.faulted = false := by simpa [runsWhileFaulted] using runs
  have reading : statusArcR s.csr.status = true := by simpa using closed
  refine .withBytes same (.treeLength clean reading) fun field length => ?_
  exact .withBytes same (.treeBody clean reading field length) fun _ _ => .complete same

theorem alike_arcGetfile :
    AlikeBelowLen s .arcGetfile (arcGetfile Params.hw s) (arcGetfile Params.hw (s.withArch m)) := by
  refine .start same fun runs => .branch (fun _ => .fault same _) fun closed => ?_
  refine .branch (fun _ => .fault same _) fun _ => .branch (fun _ => .fault same _) fun _ => ?_
  refine .branch (fun _ => .fault same _) fun range => ?_
  have clean : s.faulted = false := by simpa [runsWhileFaulted] using runs
  have reading : statusArcR s.csr.status = true := by simpa using closed
  have within := Nat.le_of_not_lt fun beyond => range (.inr beyond)
  refine .withBytes same (.region clean reading within) fun region _ => ?_
  simp only [pipe_withArch, State.withLastTable_eq]
  split
  · exact .faultOpen same _ _ _
  · exact .branch (fun _ => .faultOpen same _ _ _) fun _ => .complete same

theorem alike_arcDump : AlikeBelowLen s .arcDump (execArcDump s) (execArcDump (s.withArch m)) := by
  refine .start same fun _ => ?_
  exact .withBytes same .dump fun _ _ => .complete same

/-- Every command answers two states alike that differ at or above ARCH_LEN. -/
theorem exec_alike (i : Instr) : AlikeBelowLen s i (exec i s) (exec i (s.withArch m)) := by
  cases i with
  | nop => exact alike_nop same
  | reset => exact alike_reset same
  | csrWr n v => exact alike_csrWr same n v
  | csrRd n => exact alike_csrRd same n
  | bbPutbyte v => exact alike_bbPutbyte same v
  | bbPutbit b => exact alike_bbPutbit same b
  | bbFlush => exact alike_bbFlush same
  | bbGetbit => exact alike_bbGetbit same
  | bbGetbyte => exact alike_bbGetbyte same
  | bbAvail t => exact alike_bbAvail same t
  | bbClear => exact alike_bbClear same
  | hufEncblk => exact alike_hufEncblk same
  | hufDecblk => exact alike_hufDecblk same
  | hufEnc => exact alike_hufEnc same
  | hufDec => exact alike_hufDec same
  | hufTblrd sym w => exact alike_hufTblrd same sym w
  | lzEnc => exact alike_lzEnc same
  | lzDec => exact alike_lzDec same
  | lzrecPut d imm => exact alike_lzrecPut same d imm
  | lzrecGet => exact alike_lzrecGet same
  | ciphEnc => exact alike_ciphEnc same
  | ciphDec => exact alike_ciphDec same
  | arcBegin => exact alike_arcBegin same
  | arcPutfile => exact alike_arcPutfile same
  | arcPuttree => exact alike_arcPuttree same
  | arcLoad => exact alike_arcLoad same
  | arcOpen => exact alike_arcOpen same
  | arcGettree => exact alike_arcGettree same
  | arcGetfile => exact alike_arcGetfile same
  | arcDump => exact alike_arcDump same

end Commands

/-- Settles O16: both runs answer alike (`exec_alike`), so the second ends in the first's next state, but for
ARCH_MEM. -/
theorem bytesBeyondArchLenAreNeverRead : Obligations.BytesBeyondArchLenAreNeverRead := by
  intro i s t m same run
  have alike := exec_alike (s := s) (m := m) same i
  rw [run] at alike
  change ∃ m', exec i (s.withArch m) = .next (t.withArch m') ∧ _
  generalize exec i (s.withArch m) = r at alike
  cases alike with
  | next same' => exact ⟨_, rfl, same'⟩

/-! ### From a sound state every read answers -/

/-- The reads of a sound state end at or below ARCH_LEN: of an opened archive, because the tree region that ARC_OPEN
found ends it (R344, R345). -/
theorem ReadsArch.le_archLen {s : State} {i : Instr} {a n : Nat} (sound : Inv Params.hw s) (reads : ReadsArch s i a n) :
    a + n ≤ s.csr.archLen.toNat := by
  cases reads with
  | header long => omega
  | headerTree tree room => exact room
  | treeLength clean reading =>
    obtain ⟨-, field, -, framed⟩ := sound.arch.opened clean reading
    omega
  | treeBody clean reading field length =>
    obtain ⟨-, field', read, framed⟩ := sound.arch.opened clean reading
    obtain rfl : field' = field := Option.some.inj (read.symm.trans (memRead_eq_ok.mp length).2)
    exact framed.le
  | region clean reading range =>
    obtain ⟨-, field, -, framed⟩ := sound.arch.opened clean reading
    omega
  | dump => omega

/-- From a sound state every command answers a next state. -/
theorem exec_runs {s : State} (sound : Inv Params.hw s) (i : Instr) : Runs (exec i s) := by
  have alike := exec_alike (s := s) (m := s.arch) (fun _ _ => rfl) i
  generalize exec i s = r at alike ⊢
  generalize exec i (s.withArch s.arch) = r' at alike
  cases alike with
  | next => exact ⟨_, rfl⟩
  | stops reads stop =>
    obtain ⟨bs, answers, -⟩ := memRead_ok (reads.le_archLen sound) sound.arch.written
    exact absurd (stop.symm.trans answers) nofun

/-- Settles O60: the host acts, the command on the port runs (`exec_runs`), or a word that is no command faults. -/
theorem soundStatesRun : Obligations.SoundStatesRun := by
  intro s sound
  unfold step
  split
  case h_1 => exact ⟨_, rfl⟩
  case h_2 w _ =>
    split
    case isTrue => exact ⟨_, rfl⟩
    case isFalse =>
      split
      case h_1 i _ => exact exec_runs sound i
      case h_2 => exact ⟨_, rfl⟩

end Sys2Proof.Machine

/-! PROOFS. The encoding of commands (spec/30_encoding.md R90 to R95): the fields of a word, the rows of the opcode map
as laws, and from them that decoding and encoding undo each other. -/

namespace Sys2Proof

/-! ### The fields of a word (R90) -/

theorem append_eq_append_iff {m n : Nat} {x x' : BitVec m} {y y' : BitVec n} :
    x ++ y = x' ++ y' ↔ x = x' ∧ y = y' := by
  refine ⟨fun h => ?_, fun ⟨hx, hy⟩ => by rw [hx, hy]⟩
  have right : y = y' := by simpa only [BitVec.setWidth_append_eq_right] using congrArg (BitVec.setWidth n) h
  subst right
  exact ⟨(BitVec.append_left_inj y).mp h, rfl⟩

/-- A word is its four fields, one behind the other. -/
theorem fields_of_word (w : CommandWord) : fieldImm w ++ fieldRsv w ++ fieldA w ++ fieldOpc w = w := by
  simp only [fieldImm, fieldRsv, fieldA, fieldOpc]
  rw [BitVec.extractLsb'_append_extractLsb'_eq_extractLsb' (show 32 = 16 + 16 from rfl),
    BitVec.extractLsb'_append_extractLsb'_eq_extractLsb' (show 16 = 8 + 8 from rfl),
    BitVec.extractLsb'_append_extractLsb'_eq_extractLsb' (show 8 = 0 + 8 from rfl)]
  exact BitVec.extractLsb'_eq_self

/-- The fields of a command's word (R95). -/
theorem encode_fields (i : Instr) : Laws.EncodeFields.Statement i :=
  Laws.EncodeFields.fields_append i.operandImm i.operandA i.opcode

/-- A word whose fields are those of a command is the command's word. -/
theorem encode_eq_of_fields {w : CommandWord} {i : Instr} (opc : i.opcode = fieldOpc w) (a : i.operandA = fieldA w)
    (rsv : fieldRsv w = 0) (imm : i.operandImm = fieldImm w) : encode i = w := by
  rw [encode, opc, a, ← rsv, imm, fields_of_word]

/-- The word of a command as a number (R95). -/
theorem encode_toNat (i : Instr) :
    (encode i).toNat = i.opcode.toNat + i.operandA.toNat * 2 ^ 8 + i.operandImm.toNat * 2 ^ 32 := by
  have opc := i.opcode.isLt
  have a := i.operandA.isLt
  simp only [encode, BitVec.toNat_append]
  rw [← Nat.shiftLeft_add_eq_or_of_lt opc, ← Nat.shiftLeft_add_eq_or_of_lt a,
    ← Nat.shiftLeft_add_eq_or_of_lt (0 : BitVec 16).isLt]
  simp only [Nat.shiftLeft_eq, BitVec.ofNat_eq_ofNat, BitVec.toNat_zero]
  omega

/-! ### What a shape admits (R91) -/

theorem Shape.admits_plain {a : Byte} {imm : Word} : Shape.plain.admits a imm = true ↔ a = 0 ∧ imm = 0 := by
  simp [Shape.admits]

theorem Shape.admits_a {a : Byte} {imm : Word} : Shape.a.admits a imm = true ↔ imm = 0 := by
  simp [Shape.admits]

theorem Shape.admits_imm {a : Byte} {imm : Word} : Shape.imm.admits a imm = true ↔ a = 0 := by
  simp [Shape.admits]

theorem Shape.admits_aImm {a : Byte} {imm : Word} : Shape.aImm.admits a imm = true := rfl

theorem Shape.admits_aImm8 {a : Byte} {imm : Word} : Shape.aImm8.admits a imm = true ↔ imm.toNat < 256 := by
  simp [Shape.admits]

/-! ### The rows of the opcode map (R94) -/

/-- No two rows have the same opcode. -/
theorem opcodeMap_nodup : (opcodeMap.map OpcodeRow.opc).Nodup := by decide

/-- Looking an opcode up finds the row that has it. -/
theorem opcodeMap_find_eq_some {opc : Byte} {row : OpcodeRow} :
    opcodeMap.find? (fun row => row.opc == opc) = some row ↔ row ∈ opcodeMap ∧ row.opc = opc := by
  constructor
  · intro found
    exact ⟨List.mem_of_find?_eq_some found, by simpa using List.find?_some found⟩
  · rintro ⟨mem, rfl⟩
    obtain ⟨row', found⟩ : ∃ row', opcodeMap.find? (fun x => x.opc == row.opc) = some row' :=
      Option.isSome_iff_exists.mp (List.find?_isSome.mpr ⟨row, mem, by simp⟩)
    have opc' : row'.opc = row.opc := by simpa using List.find?_some found
    rw [found, List.inj_on_of_nodup_map opcodeMap_nodup (List.mem_of_find?_eq_some found) mem opc']

/-- A word decodes to what the row of its opcode makes of A and IMM, where the bits that must be zero are (R92). -/
theorem decode_eq_ok {w : CommandWord} {i : Instr} :
    decode w = .ok i ↔ ∃ row ∈ opcodeMap, row.opc = fieldOpc w ∧ fieldRsv w = 0 ∧
      row.shape.admits (fieldA w) (fieldImm w) = true ∧ row.make (fieldA w) (fieldImm w) = i := by
  unfold decode
  constructor
  · intro decoded
    split at decoded
    case h_1 => cases decoded
    case h_2 row found =>
      obtain ⟨mem, opc⟩ := opcodeMap_find_eq_some.mp found
      split at decoded
      case isFalse => cases decoded
      case isTrue zeros =>
        rw [Bool.and_eq_true, beq_iff_eq] at zeros
        obtain ⟨rsv, admitted⟩ := zeros
        exact ⟨row, mem, opc, rsv, admitted, Except.ok.inj decoded⟩
  · rintro ⟨row, mem, opc, rsv, admitted, made⟩
    simp [opcodeMap_find_eq_some.mpr ⟨mem, opc⟩, rsv, admitted, made]

/-- A row's command has the row's opcode, whatever the operands. -/
theorem make_opcode {row : OpcodeRow} (mem : row ∈ opcodeMap) (a : Byte) (imm : Word) :
    (row.make a imm).opcode = row.opc := by
  fin_cases mem <;> rfl

/-- A row's command has the operands it was made of, where the row's shape admits them, and is well formed: an operand
that the command does not keep is one that the shape requires to be zero. -/
theorem make_operands {row : OpcodeRow} (mem : row ∈ opcodeMap) {a : Byte} {imm : Word}
    (admitted : row.shape.admits a imm = true) :
    (row.make a imm).operandA = a ∧ (row.make a imm).operandImm = imm ∧ (row.make a imm).wellFormed = true := by
  fin_cases mem <;>
    simp_all [Shape.admits_plain, Shape.admits_a, Shape.admits_imm, Shape.admits_aImm8, Instr.operandA,
      Instr.operandImm, Instr.wellFormed]

/-- The row of a command's opcode makes the command of its operands; it admits them where the command is well formed. -/
theorem exists_row (i : Instr) :
    ∃ row ∈ opcodeMap, row.opc = i.opcode ∧ row.make i.operandA i.operandImm = i ∧
      row.shape.admits i.operandA i.operandImm = i.wellFormed := by
  obtain ⟨row, found, made, admitted⟩ : ∃ row, opcodeMap.find? (fun row => row.opc == i.opcode) = some row ∧
      row.make i.operandA i.operandImm = i ∧ row.shape.admits i.operandA i.operandImm = i.wellFormed := by
    cases i <;> exact ⟨_, rfl, rfl, rfl⟩
  obtain ⟨mem, opc⟩ := opcodeMap_find_eq_some.mp found
  exact ⟨row, mem, opc, made, admitted⟩

/-! ### Decoding and encoding -/

/-- Settles O1: the fields of the word are the command's opcode and operands (`encode_fields`), and the row of that
opcode makes the command of them (`exists_row`). -/
theorem decodeEncodeRoundTrip : Obligations.DecodeEncodeRoundTrip := by
  intro i wellFormed
  obtain ⟨row, mem, opc, made, admitted⟩ := exists_row i
  obtain ⟨opcOf, aOf, rsvOf, immOf⟩ := encode_fields i
  refine decode_eq_ok.mpr ⟨row, mem, ?_, rsvOf, ?_, ?_⟩
  · rw [opc, opcOf]
  · rw [aOf, immOf, admitted, wellFormed]
  · rw [aOf, immOf, made]

/-- Settles O2: the row that the word selects makes a command of the word's own fields (`make_opcode`,
`make_operands`). -/
theorem decodedWordIsItsEncoding : Obligations.DecodedWordIsItsEncoding := by
  intro w i decoded
  obtain ⟨row, mem, opc, rsv, admitted, rfl⟩ := decode_eq_ok.mp decoded
  obtain ⟨a, imm, wellFormed⟩ := make_operands mem admitted
  have word := encode_eq_of_fields ((make_opcode mem _ _).trans opc) a rsv imm
  exact ⟨wellFormed, word, (congrArg BitVec.toNat word).symm.trans (encode_toNat _)⟩

/-- Settles O4: each word is the encoding of the command beside it, so it decodes to that command (O1). -/
theorem specWordsDecode : Obligations.SpecWordsDecode :=
  ⟨decodeEncodeRoundTrip (.csrWr 0x10 8) rfl, decodeEncodeRoundTrip (.csrRd 0x10) rfl,
    decodeEncodeRoundTrip (.bbPutbyte 0xA5) rfl, decodeEncodeRoundTrip (.lzrecPut 2 3) rfl,
    decodeEncodeRoundTrip .arcBegin rfl⟩

/-! ### Masks (R94) -/

/-- The fixed bits of the words of a shape: RSV, OPC and the bits of A and IMM that must be zero. -/
def Shape.mask : Shape → CommandWord
  | .plain => 0xFFFFFFFFFFFFFFFF
  | .a => 0xFFFFFFFFFFFF00FF
  | .imm => 0x00000000FFFFFFFF
  | .aImm => 0x00000000FFFF00FF
  | .aImm8 => 0xFFFFFF00FFFF00FF

/-- An opcode as a word: every other field is zero. -/
theorem setWidth_opc (opc : Byte) : opc.setWidth 64 = (0 : Word) ++ (0 : BitVec 16) ++ (0 : Byte) ++ opc := by
  apply BitVec.eq_of_toNat_eq
  have := opc.isLt
  simp only [BitVec.toNat_append, BitVec.ofNat_eq_ofNat, BitVec.toNat_zero, Nat.zero_shiftLeft, Nat.zero_or,
    BitVec.toNat_setWidth]
  omega

/-- Masking a word masks its fields. -/
theorem and_fields (imm imm' : Word) (rsv rsv' : BitVec 16) (a a' opc opc' : Byte) :
    (imm ++ rsv ++ a ++ opc) &&& (imm' ++ rsv' ++ a' ++ opc') =
      (imm &&& imm') ++ (rsv &&& rsv') ++ (a &&& a') ++ (opc &&& opc') := by
  simp only [BitVec.and_append]

/-- A mask that covers RSV and OPC leaves `opc` exactly when the word has that opcode,
RSV is zero, and so are the masked bits of A and IMM. -/
theorem and_mask_eq_iff (w : CommandWord) (opc maskA : Byte) (maskImm : Word) :
    w &&& (maskImm ++ BitVec.allOnes 16 ++ maskA ++ BitVec.allOnes 8) = opc.setWidth 64 ↔
      fieldOpc w = opc ∧ fieldRsv w = 0 ∧ fieldA w &&& maskA = 0 ∧ fieldImm w &&& maskImm = 0 := by
  have masked := and_fields (fieldImm w) maskImm (fieldRsv w) (BitVec.allOnes 16) (fieldA w) maskA (fieldOpc w)
    (BitVec.allOnes 8)
  rw [fields_of_word, BitVec.and_allOnes, BitVec.and_allOnes] at masked
  rw [masked, setWidth_opc, append_eq_append_iff, append_eq_append_iff, append_eq_append_iff]
  tauto

/-- The bits of IMM above bit 7 are zero exactly when IMM is below 256 (R94, LZREC_PUT). -/
theorem and_highBits_eq_zero (imm : Word) : imm &&& 0xFFFFFF00 = 0 ↔ imm.toNat < 256 := by
  have split : imm.extractLsb' 8 24 ++ imm.extractLsb' 0 8 = imm :=
    BitVec.extractLsb'_append_extractLsb' (w := 24) (len := 8)
  have masked := BitVec.and_append (x₁ := imm.extractLsb' 8 24) (x₂ := BitVec.allOnes 24) (y₁ := imm.extractLsb' 0 8)
    (y₂ := 0#8)
  rw [split, BitVec.and_allOnes, BitVec.and_zero] at masked
  have := imm.isLt
  change imm &&& (BitVec.allOnes 24 ++ 0#8) = 0#24 ++ 0#8 ↔ _
  rw [masked, BitVec.append_left_inj, ← BitVec.toNat_inj,
    BitVec.extractLsb'_toNat, Nat.shiftRight_eq_div_pow]
  change imm.toNat / 2 ^ 8 % 2 ^ 24 = 0 ↔ _
  omega

/-- Under the mask of a shape a word is its opcode exactly when the bits that must be zero are (R91, R94). -/
theorem and_shapeMask_eq_iff (sh : Shape) (opc : Byte) (w : CommandWord) :
    w &&& sh.mask = opc.setWidth 64 ↔
      fieldOpc w = opc ∧ fieldRsv w = 0 ∧ sh.admits (fieldA w) (fieldImm w) = true := by
  cases sh with
  | plain => exact (and_mask_eq_iff w opc (BitVec.allOnes 8) (BitVec.allOnes 32)).trans (by
    simp only [Shape.admits_plain, BitVec.and_allOnes, BitVec.ofNat_eq_ofNat])
  | a => exact (and_mask_eq_iff w opc 0 (BitVec.allOnes 32)).trans (by
    simp only [Shape.admits_a, BitVec.and_allOnes, BitVec.ofNat_eq_ofNat, BitVec.and_zero, true_and])
  | imm => exact (and_mask_eq_iff w opc (BitVec.allOnes 8) 0).trans (by
    simp only [Shape.admits_imm, BitVec.and_allOnes, BitVec.ofNat_eq_ofNat, BitVec.and_zero, and_true])
  | aImm => exact (and_mask_eq_iff w opc 0 0).trans (by
    simp only [Shape.admits_aImm, BitVec.ofNat_eq_ofNat, BitVec.and_zero, and_true])
  | aImm8 =>
    exact (and_mask_eq_iff w opc 0 0xFFFFFF00).trans (by rw [and_highBits_eq_zero]; simp [Shape.admits_aImm8])

/-- A row's command is selected exactly by the words whose bits under the row's mask are its opcode (R94). -/
theorem and_mask_eq_iff_decode (w : CommandWord) (row : OpcodeRow) (mem : row ∈ opcodeMap) :
    w &&& row.shape.mask = row.opc.setWidth 64 ↔
      decode w = .ok (row.make (fieldA w) (fieldImm w)) := by
  rw [and_shapeMask_eq_iff]
  constructor
  · rintro ⟨opc, rsv, admitted⟩
    exact decode_eq_ok.mpr ⟨row, mem, opc.symm, rsv, admitted, rfl⟩
  · intro decoded
    obtain ⟨row', mem', opc', rsv, admitted, made⟩ := decode_eq_ok.mp decoded
    have sameOpc : row'.opc = row.opc := by rw [← make_opcode mem', made, make_opcode mem]
    obtain rfl := List.inj_on_of_nodup_map opcodeMap_nodup mem' mem sameOpc
    exact ⟨opc'.symm, rsv, admitted⟩

/-- Settles O3: its clauses are the rows of the opcode map in their order, each `and_mask_eq_iff_decode` at that row. -/
theorem opcodeMapRows : Obligations.OpcodeMapRows := by
  intro w
  have rows := and_mask_eq_iff_decode w
  simp only [opcodeMap, List.forall_mem_cons, List.not_mem_nil, false_implies, implies_true, and_true] at rows
  exact rows

end Sys2Proof

/-! PROOFS. Words that are no command (spec/30_encoding.md R92, R93), and the result of ARC_PUTTREE (spec/45_archive.md
R332, R342). -/

namespace Sys2Proof.Machine

open Sys2Proof

/-! ### Words that are no command -/

/-- A word whose opcode no row has decodes to nothing (R92, R93). -/
theorem decode_ne_ok_of_opcode {w : CommandWord}
    (unassigned : (fieldOpc w).toNat ∉ opcodeMap.map fun row => row.opc.toNat) (i : Instr) : decode w ≠ .ok i := by
  intro decoded
  obtain ⟨row, mem, opc, -⟩ := decode_eq_ok.mp decoded
  exact unassigned (List.mem_map.mpr ⟨row, mem, congrArg BitVec.toNat opc⟩)

/-- The step of a word that is no command faults at once: such a word is never held (R77, R92). -/
theorem step_of_illegal {s : State} {w : CommandWord} (port : s.port = some w) (illegal : ∀ i, decode w ≠ .ok i) :
    step s = faultNoEffect .illegalCmd s := by
  cases decoded : decode w with
  | ok i => exact absurd decoded (illegal i)
  | error e => simp [step, port, heldWord, decoded, illegalWord]

/-- Settles O6: the opcodes listed are those of the map's rows, and the step's fault entry is `faultsWith_raise`. -/
theorem illegalWordFaults : Obligations.IllegalWordFaults :=
  ⟨fun _ unassigned => decode_ne_ok_of_opcode unassigned,
    fun _ _ port clean illegal => ⟨_, step_of_illegal port illegal, faultsWith_raise .illegalCmd clean⟩⟩

/-! ### ARC_PUTTREE (R342) -/

/-- A write that ends before a range or begins behind it leaves what is read there. -/
theorem Mem.readBytes_writeBytes_disjoint {x a n : Nat} (bs : List Byte) (m : Mem)
    (h : a + n ≤ x ∨ x + bs.length ≤ a) : Mem.readBytes (Mem.writeBytes x bs m) a n = Mem.readBytes m a n :=
  Mem.readBytes_congr fun _ _ => Mem.read_writeBytes_outside bs m (by omega)

@[simp] theorem be32_length (n : Nat) : (be32 n).length = 4 := rfl

/-- ARCH_MEM after ARC_PUTTREE has appended a tree at `a` and patched the pointer (R332). -/
def Mem.withTree (a : Nat) (body : List Byte) (m : Mem) : Mem :=
  Mem.writeBytes 1 (be32 a) (Mem.writeBytes a (be32 body.length ++ body) m)

section

variable (a : Nat) (body : List Byte) (m : Mem)

/-- The region stands where the pointer field does not reach it: an archive being built has its header (R340). -/
theorem Mem.readBytes_withTree_region (header : 5 ≤ a) :
    Mem.readBytes (Mem.withTree a body m) a (4 + body.length) = some (be32 body.length ++ body) := by
  rw [Mem.withTree, Mem.readBytes_writeBytes_disjoint _ _ (.inr (by simpa using header))]
  simpa using Mem.readBytes_writeBytes a (be32 body.length ++ body) m

theorem Mem.readBytes_withTree_pointer : Mem.readBytes (Mem.withTree a body m) 1 4 = some (be32 a) :=
  Mem.readBytes_writeBytes 1 (be32 a) _

theorem Mem.read_withTree_outside {x : Nat} (pointer : x < 1 ∨ 5 ≤ x) (region : x < a ∨ a + 4 + body.length ≤ x) :
    Mem.read (Mem.withTree a body m) x = Mem.read m x := by
  rw [Mem.withTree, Mem.read_writeBytes_outside _ _ (by simpa using pointer),
    Mem.read_writeBytes_outside _ _ (by simpa [Nat.add_assoc] using region)]

end

section

variable {s : State} (hf : s.faulted = false) (eos : hasEos s.inq = true) (writing : statusArcW s.csr.status = true)
include hf eos writing

/-- A tree that fits is written, and the build is closed. -/
theorem arcPuttree_fits (room : s.csr.archLen.toNat + 4 + (leadingBytes s.inq).length ≤ Params.hw.archSize) :
    arcPuttree Params.hw s = complete (((((((s.withInq (afterEos s.inq)).withArch
      (Mem.withTree s.csr.archLen.toNat (leadingBytes s.inq) s.arch)).withArchLen
      (lowWord (s.csr.archLen.toNat + 4 + (leadingBytes s.inq).length))).withTreePtr s.csr.archLen).withStatus
      (statusPutArcW false s.csr.status)).withRes0 s.csr.archLen).withRes1
      (lowWord (s.csr.archLen.toNat + 4 + (leadingBytes s.inq).length))) := by
  have pointer : lowWord s.csr.archLen.toNat = s.csr.archLen := BitVec.ofNat_toNat _ _ |>.trans (BitVec.setWidth_eq _)
  refine (start_ready (i := .arcPuttree) _ hf eos).trans ?_
  simp only [writing, Bool.not_true, Bool.false_eq_true, if_false, Nat.not_lt.mpr room, pointer]
  rfl

/-- A tree that does not fit faults ARC_FULL. -/
theorem arcPuttree_arcFull (full : Params.hw.archSize < s.csr.archLen.toNat + 4 + (leadingBytes s.inq).length) :
    arcPuttree Params.hw s = faultAfterInput Params.hw .arcFull (s.writeRanges Params.hw .arcPuttree) s := by
  refine (start_ready (i := .arcPuttree) _ hf eos).trans ?_
  simp only [writing, Bool.not_true, Bool.false_eq_true, if_false, full, if_true]
  rfl

end

/-- Settles O40: with a stream in IN the command runs (`arcPuttree_fits`, `arcPuttree_arcFull`), and the memory it
leaves is that of `Mem.withTree`. -/
theorem arcPuttreeResult : Obligations.ArcPuttreeResult := by
  intro s body rest hf writing hin
  obtain ⟨leading, after, eos⟩ := stream_split body rest
  rw [← hin] at leading after eos
  subst leading after
  constructor
  · intro header room
    refine ⟨_, arcPuttree_fits hf eos writing room, ?_, ?_, fun a pointer region => ?_, fun j => ?_, rfl⟩
    · exact Mem.readBytes_withTree_region _ _ _ header
    · exact Mem.readBytes_withTree_pointer _ _ _
    · exact Mem.read_withTree_outside _ _ _ pointer region
    · exact statusPut_getLsbD 2 j false s.csr.status (by decide)
  · intro full
    exact ⟨_, arcPuttree_arcFull hf eos writing full, faultsOpen_unspecify _ _ _ hf⟩

end Sys2Proof.Machine

/-! PROOFS. The bit-buffer commands (spec/40_bitbuffer.md R141 to R152): the result of each, and the buffer as a queue
of bits. -/

namespace Sys2Proof.Machine

open Sys2Proof

/-! ### Bits, bytes and the numbers the statements write -/

theorem BitBuffer.full_iff {p : Params} {bb : BitBuffer} : bb.full p = true ↔ bb.q.length = p.bbCapacity :=
  decide_eq_true_iff

/-- The operand of BB_PUTBIT at its place in the group, as a number (R142). -/
theorem shiftLeft_eq_ofNat (a : Byte) (k : Nat) : a <<< k = BitVec.ofNat 8 (a.toNat * 2 ^ k) :=
  BitVec.eq_of_toNat_eq (by simp [Nat.shiftLeft_eq])

/-- The bit that BB_GETBIT answers, as a number (R149). -/
theorem headBit_eq_ofNat (b : Byte) (k : Nat) :
    ((b >>> k) &&& 1#8).setWidth 32 = BitVec.ofNat 32 (b.toNat / 2 ^ k % 2) :=
  BitVec.eq_of_toNat_eq (by simp only [BitVec.toNat_setWidth, BitVec.toNat_and, BitVec.toNat_ushiftRight,
    Nat.shiftRight_eq_div_pow, BitVec.toNat_ofNat, Nat.reducePow, Nat.reduceMod, Nat.and_one_is_mod])

/-- As a 0 or 1 in RES0 it is that bit of the head byte. -/
theorem getLsbD_headBit (b : Byte) (k : Nat) : (BitVec.ofNat 32 (b.toNat / 2 ^ k % 2)).getLsbD 0 = b.getLsbD k := by
  rw [← headBit_eq_ofNat]
  simpa using fun set => (BitVec.lt_of_getLsbD set).trans (by decide)

/-! ### What each command answers with STATUS.FAULT = 0 -/

section

variable {s : State} (clean : s.faulted = false)
include clean

theorem exec_bbPutbyte (v : Byte) : exec (.bbPutbyte v) s =
    if s.bb.pc ≠ 0 then faultNoEffect .bbMixed s
    else if s.bb.full Params.hw then faultNoEffect .bbFull s
    else complete (s.withBb { s.bb with q := s.bb.q ++ [v] }) := by
  change bbPutbyte Params.hw v s = _
  exact start_ready _ clean rfl

theorem exec_bbPutbit (a : Byte) : exec (.bbPutbit a) s =
    if 1 < a.toNat then faultNoEffect .badOperand s
    else if s.bb.pc = 7 ∧ s.bb.full Params.hw = true then faultNoEffect .bbFull s
    else if s.bb.pc = 7 then
      complete (s.withBb { s.bb with q := s.bb.q ++ [s.bb.pv ||| (a <<< s.bb.pc.val)], pv := 0, pc := 0 })
    else complete (s.withBb { s.bb with pv := s.bb.pv ||| (a <<< s.bb.pc.val), pc := s.bb.pc + 1 }) := by
  change bbPutbit Params.hw a s = _
  exact start_ready _ clean rfl

theorem exec_bbFlush : exec .bbFlush s =
    if s.bb.pc = 0 then complete (s.withRes0 0)
    else if s.bb.full Params.hw then faultNoEffect .bbFull s
    else complete ((s.withBb { s.bb with q := s.bb.q ++ [s.bb.pv], pv := 0, pc := 0 }).withRes0
      (lowWord s.bb.pc.val)) := by
  change bbFlush Params.hw s = _
  exact start_ready _ clean rfl

theorem exec_pop_of_empty (empty : s.bb.q = []) :
    exec .bbGetbit s = faultNoEffect .bbEmpty s ∧ exec .bbGetbyte s = faultNoEffect .bbEmpty s := by
  constructor
  · change execBbGetbit s = _
    refine (start_ready _ clean rfl).trans ?_
    simp only [empty]
  · change execBbGetbyte s = _
    refine (start_ready _ clean rfl).trans ?_
    simp only [empty]

theorem exec_bbGetbit {b : Byte} {rest : List Byte} (head : s.bb.q = b :: rest) : exec .bbGetbit s =
    if s.bb.r = 7 then
      complete ((s.withBb { s.bb with q := rest, r := 0 }).withRes0 (BitVec.ofNat 32 (b.toNat / 2 ^ s.bb.r.val % 2)))
    else
      complete ((s.withBb { s.bb with r := s.bb.r + 1 }).withRes0
        (BitVec.ofNat 32 (b.toNat / 2 ^ s.bb.r.val % 2))) := by
  change execBbGetbit s = _
  refine (start_ready _ clean rfl).trans ?_
  simp only [head, headBit_eq_ofNat]

theorem exec_bbGetbyte {b : Byte} {rest : List Byte} (head : s.bb.q = b :: rest) : exec .bbGetbyte s =
    if s.bb.r ≠ 0 then faultNoEffect .bbMixed s
    else complete ((s.withBb { s.bb with q := rest }).withRes0 (BitVec.ofNat 32 b.toNat)) := by
  change execBbGetbyte s = _
  refine (start_ready _ clean rfl).trans ?_
  simp only [head, BitVec.ofNat_toNat]

theorem exec_bbAvail (t : Word) :
    exec (.bbAvail t) s = complete (s.withRes0 (if t.toNat < s.bb.bits then 1 else 0)) := by
  change execBbAvail t s = _
  exact start_ready _ clean rfl

theorem exec_bbClear : exec .bbClear s = complete (s.withBb BitBuffer.empty) := by
  change execBbClear s = _
  exact start_ready _ clean rfl

end

/-- Settles O28: neither command has a check. -/
theorem availAndClearResults : Obligations.AvailAndClearResults :=
  fun _ clean => ⟨exec_bbAvail clean, exec_bbClear clean⟩

/-- Settles O24: the two checks come in the order of R146. -/
theorem putByteResult : Obligations.PutByteResult := by
  intro v s clean
  rw [exec_bbPutbyte clean]
  refine ⟨fun aligned room => ?_, fun mixed => ⟨_, if_pos mixed, faultsWith_raise .bbMixed clean⟩,
    fun aligned full => ⟨_, ?_, faultsWith_raise .bbFull clean⟩⟩
  · rw [if_neg (not_not.mpr aligned), if_neg (BitBuffer.full_iff.not.mpr room)]
    rfl
  · rw [if_neg (not_not.mpr aligned), if_pos (BitBuffer.full_iff.mpr full)]
    rfl

/-- Settles O25: the two checks come in the order of R147, and the eighth bit is the one at place 7. -/
theorem putBitResult : Obligations.PutBitResult := by
  intro a s clean
  rw [exec_bbPutbit clean, shiftLeft_eq_ofNat]
  refine ⟨fun bit more => ?_, fun bit last room => ?_,
    fun wide => ⟨_, if_pos wide, faultsWith_raise .badOperand clean⟩,
    fun bit last full => ⟨_, ?_, faultsWith_raise .bbFull clean⟩⟩
  · have more' : s.bb.pc ≠ 7 := fun last => by simp [last] at more
    rw [if_neg (Nat.not_lt.mpr bit), if_neg fun h => more' h.1, if_neg more']
    rfl
  · rw [if_neg (Nat.not_lt.mpr bit), if_neg fun h => room (BitBuffer.full_iff.mp h.2),
      if_pos (Fin.ext last : s.bb.pc = 7), last]
    rfl
  · rw [if_neg (Nat.not_lt.mpr bit), if_pos ⟨Fin.ext last, BitBuffer.full_iff.mpr full⟩]
    rfl

/-- Settles O26: an empty group is no byte, so that it asks for no room (R144). -/
theorem flushResult : Obligations.FlushResult := by
  intro s clean
  rw [exec_bbFlush clean]
  refine ⟨fun empty => if_pos empty, fun group room => ?_,
    fun group full => ⟨_, ?_, faultsWith_raise .bbFull clean⟩⟩
  · rw [if_neg group, if_neg (BitBuffer.full_iff.not.mpr room)]
    rfl
  · rw [if_neg group, if_pos (BitBuffer.full_iff.mpr full)]
    rfl

/-- Settles O27: both commands look at the head byte before anything else (R149, R150). -/
theorem popResults : Obligations.PopResults := by
  intro s clean
  refine ⟨fun empty i pop => ⟨_, ?_, faultsWith_raise .bbEmpty clean⟩, fun b rest head => ?_⟩
  · obtain ⟨getBit, getByte⟩ := exec_pop_of_empty clean empty
    simp only [List.mem_cons, List.not_mem_nil, or_false] at pop
    obtain rfl | rfl := pop
    · exact getBit
    · exact getByte
  · rw [exec_bbGetbit clean head, exec_bbGetbyte clean head]
    refine ⟨fun more => ?_, fun last => ?_, fun unread => if_neg (not_not.mpr unread),
      fun mixed => ⟨_, if_pos mixed, faultsWith_raise .bbMixed clean⟩⟩
    · exact if_neg fun last => by simp [last] at more
    · have bit : b.toNat / 2 ^ 7 % 2 = b.toNat / 2 ^ 7 := Nat.mod_eq_of_lt (by omega)
      rw [if_pos (Fin.ext last : s.bb.r = 7), last, bit]
      rfl

/-! ### The buffer as a queue of bits -/

theorem unpack_append (bs bs' : List Byte) : unpack (bs ++ bs') = unpack bs ++ unpack bs' := by
  induction bs with
  | nil => rfl
  | cons b bs ih => simp [unpack, ih]

/-- A byte that holds a group is the group's bits and zeros (R140, R142). -/
theorem byteBits_of_holdsGroup {acc : Byte} {pre : Bits} (h : HoldsGroup acc pre) (fits : pre.length ≤ 8) :
    byteBits acc = pre ++ List.replicate (8 - pre.length) false := by
  refine List.ext_getElem (by simp [fits]) fun i hi _ => ?_
  rw [← List.getD_eq_getElem _ false, byteBits_getD acc i hi, h i hi]
  by_cases inside : i < pre.length
  · simp [inside]
  · simp [inside, Nat.le_of_not_lt inside]

namespace BitBuffer

@[simp] theorem pending_length (bb : BitBuffer) : bb.pending.length = bb.pc.val := by
  have := bb.pc.isLt
  simp only [pending, List.length_take, byteBits_length]
  omega

/-- An empty group has no bits. -/
theorem pending_eq_nil {bb : BitBuffer} (empty : bb.pc = 0) : bb.pending = [] :=
  List.eq_nil_of_length_eq_zero (by simp [empty])

/-- When `pv` holds a group of `pc` bits, those are the pending bits (R41). -/
theorem pending_eq_of_holdsGroup {bb : BitBuffer} {pre : Bits} (h : HoldsGroup bb.pv pre)
    (length : pre.length = bb.pc.val) : bb.pending = pre := by
  have := bb.pc.isLt
  rw [pending, byteBits_of_holdsGroup h (by omega), ← length, List.take_left]

/-- The bits of the head byte from the next one to be popped on, and the other bytes (R143). -/
theorem readable_cons {bb : BitBuffer} {b : Byte} {rest : List Byte} (head : bb.q = b :: rest) :
    bb.readable = (byteBits b).drop bb.r.val ++ unpack rest := by
  have := bb.r.isLt
  rw [readable, head, unpack, List.drop_append_of_le_length (by rw [byteBits_length]; omega)]

/-- The next bit to be popped is bit `r` of the head byte (R143, R149). -/
theorem readable_eq_bit_cons {bb : BitBuffer} {b : Byte} {rest : List Byte} (head : bb.q = b :: rest) :
    bb.readable = b.getLsbD bb.r.val :: ((byteBits b).drop (bb.r.val + 1) ++ unpack rest) := by
  have inside : bb.r.val < (byteBits b).length := bb.r.isLt
  rw [readable_cons head, List.drop_eq_getElem_cons inside, ← List.getD_eq_getElem _ false, byteBits_getD b _ inside,
    List.cons_append]

section

variable {p : Params} {bb : BitBuffer} (sound : bb.Sound p)
include sound

/-- The pending bits stand at their places in `pv`, and the bits above them are zero (R41). -/
theorem Sound.holdsGroup : HoldsGroup bb.pv bb.pending := by
  intro i hi
  by_cases inside : i < bb.pc.val
  · rw [BitBuffer.pending, ← byteBits_getD bb.pv i hi, List.getD_eq_getElem?_getD, List.getD_eq_getElem?_getD,
      List.getElem?_take_of_lt inside]
  · have above : bb.pv.toNat < 2 ^ i :=
      sound.pending.trans_le (Nat.pow_le_pow_right (by decide) (Nat.le_of_not_lt inside))
    rw [List.getD_eq_default _ _ (by simpa using inside)]
    exact Nat.testBit_lt_two_pow above

/-- A completed byte goes behind the readable bits, whatever becomes of the group (R142). -/
theorem Sound.readable_push (b : Byte) (pv : Byte) (pc : Fin 8) :
    readable { bb with q := bb.q ++ [b], pv := pv, pc := pc } = bb.readable ++ byteBits b := by
  have read : bb.r.val ≤ (unpack bb.q).length := by
    rcases hq : bb.q with _ | ⟨head, rest⟩
    · simp [sound.emptyUnread hq]
    · have := bb.r.isLt
      simp only [unpack_length, List.length_cons]
      omega
  simp only [readable, unpack_append, List.drop_append_of_le_length read, unpack, List.append_nil]

/-- The group with one more bit (R142). -/
theorem Sound.holdsGroup_putBit {a : Byte} (bit : a.toNat ≤ 1) :
    HoldsGroup (bb.pv ||| BitVec.ofNat 8 (a.toNat * 2 ^ bb.pc.val)) (bb.pending ++ [a == 1]) := by
  have operand : a = if (a == 1) then 1#8 else 0#8 := by
    obtain zero | one : a.toNat = 0 ∨ a.toNat = 1 := by omega
    · obtain rfl : a = 0#8 := BitVec.eq_of_toNat_eq zero
      rfl
    · obtain rfl : a = 1#8 := BitVec.eq_of_toNat_eq one
      rfl
  have grown := sound.holdsGroup.grow (a == 1)
  rwa [← operand, pending_length, shiftLeft_eq_ofNat] at grown

/-- The group as a byte: its bits and the filler (R144). -/
theorem Sound.byteBits_pv (group : bb.pc ≠ 0) :
    byteBits bb.pv = bb.pending ++ List.replicate (filler bb.pending.length) false := by
  have := bb.pc.isLt
  have := Fin.val_ne_zero_iff.mpr group
  have zeros : filler bb.pc.val = 8 - bb.pc.val := by
    unfold filler
    omega
  rw [byteBits_of_holdsGroup sound.holdsGroup (by simp), pending_length, zeros]

end

end BitBuffer

/-! ### The queue under each command -/

/-- A command that left STATUS.FAULT at 0 did not fault. -/
theorem not_faultsWith_of_clean {s t : State} {i : Instr} {c : FaultCode} (clean : t.faulted = false)
    (run : exec i s = .next t) : ¬∃ u, exec i s = .next u ∧ FaultsWith c s u := by
  rintro ⟨u, run', fault⟩
  obtain rfl := Host.Outcome.next.inj (run.symm.trans run')
  rw [FaultsWith] at fault
  rw [fault] at clean
  simp [State.faulted] at clean

section

variable {s t : State} (clean : s.faulted = false) (done : t.faulted = false)
include clean done

theorem queue_getBit (run : exec .bbGetbit s = .next t) :
    s.bb.readable = t.csr.res0.getLsbD 0 :: t.bb.readable ∧ t.bb.pending = s.bb.pending := by
  rcases head : s.bb.q with _ | ⟨b, rest⟩
  · exact absurd ⟨_, (exec_pop_of_empty clean head).1, faultsWith_raise _ clean⟩ (not_faultsWith_of_clean done run)
  · rw [exec_bbGetbit clean head] at run
    rw [BitBuffer.readable_eq_bit_cons head]
    split at run
    case isTrue last =>
      obtain rfl := Host.Outcome.next.inj run
      refine ⟨?_, rfl⟩
      rw [last]
      exact congrArg (· :: unpack rest) (getLsbD_headBit b 7).symm
    case isFalse more =>
      obtain rfl := Host.Outcome.next.inj run
      refine ⟨?_, rfl⟩
      have next : (s.bb.r + 1).val = s.bb.r.val + 1 := Fin.val_add_one_of_lt (Fin.lt_last_iff_ne_last.mpr more)
      rw [← next]
      exact congrArg₂ List.cons (getLsbD_headBit b s.bb.r.val).symm
        (BitBuffer.readable_cons (bb := { s.bb with r := s.bb.r + 1 }) head).symm

theorem queue_getByte (run : exec .bbGetbyte s = .next t) :
    s.bb.readable = byteBits (t.csr.res0.setWidth 8) ++ t.bb.readable ∧ t.bb.pending = s.bb.pending := by
  obtain ⟨empty, pops⟩ := popResults s clean
  rcases head : s.bb.q with _ | ⟨b, rest⟩
  · exact absurd (empty head _ (by simp)) (not_faultsWith_of_clean done run)
  · obtain ⟨-, -, byte, mixed⟩ := pops b rest head
    have unread : s.bb.r = 0 := by_contra fun h => not_faultsWith_of_clean done run (mixed h)
    obtain rfl := Host.Outcome.next.inj (run.symm.trans (byte unread))
    rw [BitBuffer.readable_cons head]
    simp [BitBuffer.readable, BitBuffer.pending, unread]

variable (sound : BitBuffer.Sound Params.hw s.bb)
include sound

theorem queue_putByte {v : Byte} (run : exec (.bbPutbyte v) s = .next t) :
    t.bb.readable = s.bb.readable ++ byteBits v ∧ t.bb.pending = [] ∧ s.bb.pending = [] := by
  obtain ⟨puts, mixed, full⟩ := putByteResult v s clean
  have aligned : s.bb.pc = 0 := by_contra fun h => not_faultsWith_of_clean done run (mixed h)
  have room := fun h => not_faultsWith_of_clean done run (full aligned h)
  obtain rfl := Host.Outcome.next.inj (run.symm.trans (puts aligned room))
  exact ⟨sound.readable_push v _ _, BitBuffer.pending_eq_nil aligned, BitBuffer.pending_eq_nil aligned⟩

theorem queue_putBit {a : Byte} (run : exec (.bbPutbit a) s = .next t) :
    t.bb.readable ++ t.bb.pending = s.bb.readable ++ s.bb.pending ++ [a == 1] := by
  obtain ⟨puts, completes, wide, full⟩ := putBitResult a s clean
  have bit : a.toNat ≤ 1 := Nat.le_of_not_lt fun h => not_faultsWith_of_clean done run (wide h)
  have group := sound.holdsGroup_putBit bit
  have := s.bb.pc.isLt
  obtain more | last : s.bb.pc.val < 7 ∨ s.bb.pc.val = 7 := by omega
  · obtain rfl := Host.Outcome.next.inj (run.symm.trans (puts bit more))
    have next : (s.bb.pc + 1).val = s.bb.pc.val + 1 := Fin.val_add_one_of_lt more
    rw [BitBuffer.pending_eq_of_holdsGroup group (by simp [next]), List.append_assoc]
    rfl
  · have room := fun h => not_faultsWith_of_clean done run (full bit last h)
    obtain rfl := Host.Outcome.next.inj (run.symm.trans (completes bit last room))
    have byte := byteBits_of_holdsGroup group (by simp [last])
    rw [last] at byte
    rw [BitBuffer.pending_eq_nil rfl, sound.readable_push, byte]
    simp [last]

theorem queue_flush (run : exec .bbFlush s = .next t) :
    t.bb.readable = s.bb.readable ++ s.bb.pending ++ List.replicate (filler s.bb.pending.length) false ∧
      t.bb.pending = [] := by
  obtain ⟨nothing, emits, full⟩ := flushResult s clean
  by_cases empty : s.bb.pc = 0
  · obtain rfl := Host.Outcome.next.inj (run.symm.trans (nothing empty))
    have none := BitBuffer.pending_eq_nil empty
    exact ⟨by simp [none, filler], none⟩
  · have room := fun h => not_faultsWith_of_clean done run (full empty h)
    obtain rfl := Host.Outcome.next.inj (run.symm.trans (emits empty room))
    refine ⟨?_, BitBuffer.pending_eq_nil rfl⟩
    rw [sound.readable_push, sound.byteBits_pv empty, List.append_assoc]

end

/-- Settles O29: each command answers as O24 to O27 say, and what it does to the buffer is a law of `readable` and
`pending` above. -/
theorem bitBufferIsAQueue : Obligations.BitBufferIsAQueue := by
  intro s t clean done sound
  exact ⟨fun v => queue_putByte clean done sound, fun a => queue_putBit clean done sound,
    queue_flush clean done sound, queue_getBit clean done, queue_getByte clean done⟩

end Sys2Proof.Machine

/-! PROOFS. Which commands use the bit buffer (spec/40_bitbuffer.md R153): with another bit buffer, a command of the
codecs answers the same with that other bit buffer. -/

namespace Sys2Proof.Machine

open Sys2Proof

/-- The answer `r` with another bit buffer in its next state. -/
def answerWithBb (bb : BitBuffer) : Result → Result
  | .next t => .next (t.withBb bb)
  | .fault f => .fault f
  | .refused r => .refused r

section

variable {s : State} {bb : BitBuffer}

/-! ### What every command shares -/

theorem raise_withBb (c : FaultCode) : (s.withBb bb).raise c = (s.raise c).withBb bb := by
  cases faulted : s.faulted
  · rw [State.raise_of_clean s c faulted]
    exact State.raise_of_clean _ c faulted
  · rw [State.raise_of_faulted s c faulted]
    exact State.raise_of_faulted _ c faulted

theorem fault_withBb (c : FaultCode) : faultNoEffect c (s.withBb bb) = answerWithBb bb (faultNoEffect c s) := by
  rw [faultNoEffect, raise_withBb]
  rfl

theorem faultOpen_withBb (p : Params) (c : FaultCode) (ranges : List (Nat × Nat)) :
    faultAfterInput p c ranges (s.withBb bb) = answerWithBb bb (faultAfterInput p c ranges s) := by
  rw [faultAfterInput, raise_withBb]
  rfl

/-- Both runs take the same branch of a check that does not read the bit buffer. -/
theorem branch_withBb {c : Prop} {d d' : Decidable c} {yes yes' no no' : Result}
    (hyes : yes' = answerWithBb bb yes) (hno : no' = answerWithBb bb no) :
    @ite _ c d yes' no' = answerWithBb bb (@ite _ c d' yes no) := by
  rw [Subsingleton.elim d' d, hyes, hno, apply_ite (answerWithBb bb)]

theorem withBytes_withBb {bytes : Except Fault (List Byte)} {use use' : List Byte → Result}
    (h : ∀ bs, use' bs = answerWithBb bb (use bs)) :
    withBytes bytes use' = answerWithBb bb (withBytes bytes use) := by
  cases bytes with
  | ok bs => exact h bs
  | error f => rfl

/-- Whether a command waits does not depend on the bit buffer (R77). -/
theorem held_withBb (i : Instr) : held Params.hw i (s.withBb bb) = held Params.hw i s := by
  cases i <;> rfl

theorem start_withBb {i : Instr} {body : State → Result} (h : body (s.withBb bb) = answerWithBb bb (body s)) :
    start Params.hw i (s.withBb bb) body = answerWithBb bb (start Params.hw i s body) := by
  unfold start
  rw [held_withBb]
  exact branch_withBb rfl (branch_withBb rfl h)

/-! ### Huffman commands -/

variable (s bb)

theorem hufEncblk_withBb : hufEncblk Params.hw (s.withBb bb) = answerWithBb bb (hufEncblk Params.hw s) := by
  refine start_withBb (branch_withBb (fault_withBb _) (branch_withBb (fault_withBb _) ?_))
  dsimp only [State.withBb_inq]
  split
  · rfl
  · exact branch_withBb (faultOpen_withBb _ _ _) rfl

theorem hufDecblk_withBb : hufDecblk Params.hw (s.withBb bb) = answerWithBb bb (hufDecblk Params.hw s) := by
  refine start_withBb (branch_withBb (fault_withBb _) ?_)
  dsimp only [State.withBb_inq, State.withBb_csr]
  split
  · rfl
  · split
    · exact faultOpen_withBb _ _ _
    · rfl

theorem hufEnc_withBb : hufEnc Params.hw (s.withBb bb) = answerWithBb bb (hufEnc Params.hw s) := by
  refine start_withBb (branch_withBb (fault_withBb _) (branch_withBb (fault_withBb _) ?_))
  simp only [State.withBb_inq, State.withBb_csr, State.withLastTable_eq]
  split
  · exact faultOpen_withBb _ _ _
  · rfl

theorem hufDec_withBb : hufDec Params.hw (s.withBb bb) = answerWithBb bb (hufDec Params.hw s) := by
  refine start_withBb (branch_withBb (fault_withBb _) ?_)
  simp only [State.withBb_inq, State.withBb_csr, State.withLastTable_eq]
  split
  · exact faultOpen_withBb _ _ _
  · rfl

theorem hufTblrd_withBb (sym : Byte) (w : Word) :
    execHufTblrd sym w (s.withBb bb) = answerWithBb bb (execHufTblrd sym w s) := by
  refine start_withBb (branch_withBb (fault_withBb _) ?_)
  dsimp only [State.withBb_symtab]
  split
  · rfl
  · rfl

/-! ### LZ77, record and cipher commands -/

theorem lzEnc_withBb : lzEnc Params.hw (s.withBb bb) = answerWithBb bb (lzEnc Params.hw s) :=
  start_withBb (branch_withBb (fault_withBb _) (branch_withBb (fault_withBb _) rfl))

theorem lzDec_withBb : lzDec Params.hw (s.withBb bb) = answerWithBb bb (lzDec Params.hw s) := by
  refine start_withBb (branch_withBb (fault_withBb _) ?_)
  dsimp only [State.withBb_inq, State.withBb_csr]
  split
  · exact faultOpen_withBb _ _ _
  · rfl

theorem lzrecPut_withBb (d : Byte) (imm : Word) :
    execLzrecPut d imm (s.withBb bb) = answerWithBb bb (execLzrecPut d imm s) :=
  start_withBb (branch_withBb (fault_withBb _) rfl)

theorem lzrecGet_withBb : lzrecGet Params.hw (s.withBb bb) = answerWithBb bb (lzrecGet Params.hw s) := by
  refine start_withBb ?_
  dsimp only [State.withBb_inq]
  split
  · rfl
  · exact branch_withBb (faultOpen_withBb _ _ _) rfl
  · exact faultOpen_withBb _ _ _

theorem ciphEnc_withBb : ciphEnc Params.hw (s.withBb bb) = answerWithBb bb (ciphEnc Params.hw s) :=
  start_withBb rfl

theorem ciphDec_withBb : ciphDec Params.hw (s.withBb bb) = answerWithBb bb (ciphDec Params.hw s) :=
  start_withBb rfl

/-! ### Archive commands -/

theorem arcBegin_withBb : execArcBegin (s.withBb bb) = answerWithBb bb (execArcBegin s) :=
  start_withBb (branch_withBb (fault_withBb _) rfl)

theorem arcPutfile_withBb : arcPutfile Params.hw (s.withBb bb) = answerWithBb bb (arcPutfile Params.hw s) := by
  refine start_withBb (branch_withBb (fault_withBb _) (branch_withBb (fault_withBb _) ?_))
  have pipe : (s.withBb bb).pipe = s.pipe := rfl
  simp only [State.withBb_inq, State.withBb_csr, State.withLastTable_eq, pipe]
  split
  · exact faultOpen_withBb _ _ _
  · exact branch_withBb (faultOpen_withBb _ _ _) rfl

theorem arcPuttree_withBb : arcPuttree Params.hw (s.withBb bb) = answerWithBb bb (arcPuttree Params.hw s) :=
  start_withBb (branch_withBb (fault_withBb _) (branch_withBb (faultOpen_withBb _ _ _) rfl))

theorem arcLoad_withBb : arcLoad Params.hw (s.withBb bb) = answerWithBb bb (arcLoad Params.hw s) :=
  start_withBb (branch_withBb (faultOpen_withBb _ _ _) rfl)

theorem arcOpen_withBb : execArcOpen (s.withBb bb) = answerWithBb bb (execArcOpen s) := by
  refine start_withBb (branch_withBb (fault_withBb _) (withBytes_withBb fun header => ?_))
  refine branch_withBb (fault_withBb _) (branch_withBb (fault_withBb _) (withBytes_withBb fun field => ?_))
  exact branch_withBb (fault_withBb _) rfl

theorem arcGettree_withBb : execArcGettree (s.withBb bb) = answerWithBb bb (execArcGettree s) := by
  refine start_withBb (branch_withBb (fault_withBb _) (withBytes_withBb fun field => ?_))
  exact withBytes_withBb fun _ => rfl

theorem arcGetfile_withBb : arcGetfile Params.hw (s.withBb bb) = answerWithBb bb (arcGetfile Params.hw s) := by
  refine start_withBb (branch_withBb (fault_withBb _) (branch_withBb (fault_withBb _) ?_))
  refine branch_withBb (fault_withBb _) (branch_withBb (fault_withBb _) (withBytes_withBb fun region => ?_))
  have pipe : (s.withBb bb).pipe = s.pipe := rfl
  simp only [pipe, State.withLastTable_eq]
  split
  · exact faultOpen_withBb _ _ _
  · exact branch_withBb (faultOpen_withBb _ _ _) rfl

theorem arcDump_withBb : execArcDump (s.withBb bb) = answerWithBb bb (execArcDump s) :=
  start_withBb (withBytes_withBb fun _ => rfl)

end

/-- The families whose commands have no use for the bit buffer (R153). -/
def codecFamilies : List Family := [.huffman, .lz77, .record, .cipher, .archive]

/-- A codec's command answers the same with another bit buffer, but for that bit buffer. -/
theorem exec_withBb {i : Instr} (codec : i.family ∈ codecFamilies) (s : State) (bb : BitBuffer) :
    exec i (s.withBb bb) = answerWithBb bb (exec i s) := by
  cases i with
  | nop | reset | csrWr | csrRd => exact absurd codec (by simp [Instr.family, codecFamilies])
  | bbPutbyte | bbPutbit | bbFlush | bbGetbit | bbGetbyte | bbAvail | bbClear =>
    exact absurd codec (by simp [Instr.family, codecFamilies])
  | hufEncblk => exact hufEncblk_withBb s bb
  | hufDecblk => exact hufDecblk_withBb s bb
  | hufEnc => exact hufEnc_withBb s bb
  | hufDec => exact hufDec_withBb s bb
  | hufTblrd sym w => exact hufTblrd_withBb s bb sym w
  | lzEnc => exact lzEnc_withBb s bb
  | lzDec => exact lzDec_withBb s bb
  | lzrecPut d imm => exact lzrecPut_withBb s bb d imm
  | lzrecGet => exact lzrecGet_withBb s bb
  | ciphEnc => exact ciphEnc_withBb s bb
  | ciphDec => exact ciphDec_withBb s bb
  | arcBegin => exact arcBegin_withBb s bb
  | arcPutfile => exact arcPutfile_withBb s bb
  | arcPuttree => exact arcPuttree_withBb s bb
  | arcLoad => exact arcLoad_withBb s bb
  | arcOpen => exact arcOpen_withBb s bb
  | arcGettree => exact arcGettree_withBb s bb
  | arcGetfile => exact arcGetfile_withBb s bb
  | arcDump => exact arcDump_withBb s bb

/-- Settles O14: the second clause is `exec_withBb`; the first is the same with the bit buffer the state has. -/
theorem codecsDoNotUseTheBitBuffer : Obligations.CodecsDoNotUseTheBitBuffer := by
  intro i s t bb codec run
  have same (bb : BitBuffer) : exec i (s.withBb bb) = .next (t.withBb bb) := by rw [exec_withBb codec, run]; rfl
  refine ⟨?_, same bb⟩
  have kept : t = t.withBb s.bb := Host.Outcome.next.inj (run.symm.trans (same s.bb))
  rw [kept, State.withBb_bb]

end Sys2Proof.Machine

/-! PROOFS. The Huffman code of a block (spec/41_huffman.md R171 to R177): the symbols of a block, symbol tables as
maps, the merging, the codes as paths, and what `huffBuild` answers. -/

namespace Sys2Proof.Machine

open Sys2Proof

/-! ### The symbols of a block (R171) -/

theorem distinctAfter_cons (seen : List Byte) (x : Byte) (xs : List Byte) :
    distinctAfter seen (x :: xs) =
      if seen.contains x then distinctAfter seen xs else x :: distinctAfter (x :: seen) xs := rfl

theorem mem_distinctAfter {x : Byte} (xs : List Byte) :
    ∀ seen : List Byte, x ∈ distinctAfter seen xs ↔ x ∈ xs ∧ x ∉ seen := by
  induction xs with
  | nil => simp [distinctAfter]
  | cons y ys ih =>
    intro seen
    rw [distinctAfter_cons]
    by_cases same : x = y
    · subst same
      by_cases known : x ∈ seen <;> simp [known, ih]
    · by_cases known : y ∈ seen <;> simp [known, same, ih]

theorem distinctAfter_nodup (xs : List Byte) : ∀ seen : List Byte, (distinctAfter seen xs).Nodup := by
  induction xs with
  | nil => exact fun _ => List.nodup_nil
  | cons y ys ih =>
    intro seen
    rw [distinctAfter_cons]
    split_ifs
    · exact ih seen
    · exact List.nodup_cons.mpr ⟨by simp [mem_distinctAfter], ih _⟩

/-- The distinct symbols stand in the order of their first occurrences (R171, FIRST_OCCURRENCE). -/
theorem distinctAfter_pairwise (xs : List Byte) :
    ∀ seen : List Byte, (distinctAfter seen xs).Pairwise fun s s' => xs.idxOf s < xs.idxOf s' := by
  induction xs with
  | nil => exact fun _ => List.Pairwise.nil
  | cons y ys ih =>
    have later {seen : List Byte} (known : y ∈ seen) :
        (distinctAfter seen ys).Pairwise fun s s' => (y :: ys).idxOf s < (y :: ys).idxOf s' := by
      refine (ih seen).imp_of_mem fun {s s'} hs hs' lt => ?_
      have other {x : Byte} (hx : x ∈ distinctAfter seen ys) : y ≠ x :=
        fun same => ((mem_distinctAfter ys seen).mp hx).2 (same ▸ known)
      rw [List.idxOf_cons_ne _ (other hs), List.idxOf_cons_ne _ (other hs')]
      exact Nat.succ_lt_succ lt
    intro seen
    rw [distinctAfter_cons]
    split_ifs with known
    · exact later (by simpa using known)
    · refine List.pairwise_cons.mpr ⟨fun s hs => ?_, later List.mem_cons_self⟩
      have other : y ≠ s := fun same => ((mem_distinctAfter ys _).mp hs).2 (same ▸ List.mem_cons_self)
      rw [List.idxOf_cons_self, List.idxOf_cons_ne _ other]
      exact Nat.succ_pos _

theorem mem_allBytes (s : Byte) : s ∈ allBytes :=
  List.mem_map.mpr ⟨s.toNat, List.mem_range.mpr s.isLt, by simp⟩

theorem allBytes_pairwise : allBytes.Pairwise fun s s' => s < s' := by
  refine List.pairwise_map.mpr ((List.pairwise_lt_range (n := 256)).imp_of_mem fun ha hb lt => ?_)
  rw [List.mem_range] at ha hb
  simpa [BitVec.lt_def, Nat.mod_eq_of_lt ha, Nat.mod_eq_of_lt hb] using lt

theorem mem_syms {order : LeafOrder} {block : List Byte} {s : Byte} : s ∈ syms order block ↔ s ∈ block := by
  cases order with
  | firstOccurrence => simp [syms, mem_distinctAfter]
  | ascendingSymbol => simp [syms, mem_allBytes]

theorem syms_ascending_pairwise (block : List Byte) :
    (syms .ascendingSymbol block).Pairwise fun s s' => s < s' :=
  allBytes_pairwise.filter _

theorem syms_nodup (order : LeafOrder) (block : List Byte) : (syms order block).Nodup := by
  cases order with
  | firstOccurrence => exact distinctAfter_nodup block []
  | ascendingSymbol => exact (syms_ascending_pairwise block).imp fun lt => (BitVec.ne_of_lt lt)

theorem syms_eq_nil {order : LeafOrder} {block : List Byte} : syms order block = [] ↔ block = [] := by
  simp only [List.eq_nil_iff_forall_not_mem, mem_syms]

theorem allBytes_length : allBytes.length = 256 := by rw [allBytes, List.length_map, List.length_range]

/-- A block has at most 256 symbols (R7). -/
theorem syms_length_le (order : LeafOrder) (block : List Byte) : (syms order block).length ≤ 256 := by
  rw [← allBytes_length]
  exact (List.subperm_of_subset (syms_nodup order block) fun s _ => mem_allBytes s).length_le

/-! ### Symbol tables as maps (R42) -/

theorem Symtab.sorted_iff {t : Symtab} : Symtab.sorted t = true ↔ t.Pairwise fun e e' => e.1 < e'.1 := by
  induction t with
  | nil => simp [Symtab.sorted]
  | cons e t ih =>
    cases t with
    | nil => simp [Symtab.sorted]
    | cons e' t =>
      rw [Symtab.sorted, Bool.and_eq_true, decide_eq_true_iff, ih, List.pairwise_cons (a := e), and_congr_left_iff]
      intro rising
      refine ⟨fun lt => List.forall_mem_cons.mpr ⟨lt, fun x hx => ?_⟩, fun all => all e' List.mem_cons_self⟩
      exact BitVec.lt_trans lt ((List.pairwise_cons.mp rising).1 x hx)

/-- In a table whose symbols rise every entry is the one that its symbol looks up. -/
theorem Symtab.lookup_eq_some {t : Symtab} (sorted : t.Pairwise fun e e' => e.1 < e'.1) {s : Byte} {c : Bits} :
    Symtab.lookup t s = some c ↔ (s, c) ∈ t := by
  induction t with
  | nil => simp [Symtab.lookup]
  | cons e t ih =>
    obtain ⟨x, v⟩ := e
    obtain ⟨first, rest⟩ := List.pairwise_cons.mp sorted
    rw [Symtab.lookup_cons]
    by_cases same : x = s
    · subst same
      have absent : (x, c) ∉ t := fun mem => BitVec.lt_irrefl x (first _ mem)
      simp [absent, eq_comm]
    · simp [same, ih rest, Ne.symm same]

/-- A table has at most 256 entries. -/
theorem Symtab.length_le {t : Symtab} (rising : t.Pairwise fun e e' => e.1 < e'.1) : t.length ≤ 256 := by
  have distinct : (t.map Prod.fst).Nodup := List.pairwise_map.mpr (rising.imp BitVec.ne_of_lt)
  rw [← allBytes_length, ← List.length_map (f := Prod.fst)]
  exact (List.subperm_of_subset distinct fun s _ => mem_allBytes s).length_le

/-- Entries with distinct symbols make a table of exactly these entries, and of those that were there before. -/
theorem lookup_foldl_insert {s : Byte} {c : Bits} (entries : List (Byte × Bits)) : ∀ t : Symtab,
    (entries.map Prod.fst).Nodup →
      (Symtab.lookup (entries.foldl (fun t e => Symtab.insert e.1 e.2 t) t) s = some c ↔
        (s, c) ∈ entries ∨ (s ∉ entries.map Prod.fst ∧ Symtab.lookup t s = some c)) := by
  induction entries with
  | nil => simp
  | cons e entries ih =>
    intro t distinct
    obtain ⟨x, v⟩ := e
    obtain ⟨fresh, distinct⟩ := List.nodup_cons.mp distinct
    rw [List.foldl_cons, ih _ distinct, Symtab.lookup_insert]
    by_cases same : x = s
    · subst same
      have absent : (x, c) ∉ entries := fun mem => fresh (List.mem_map.mpr ⟨_, mem, rfl⟩)
      have absent' : x ∉ entries.map Prod.fst := fresh
      simp [absent, absent', eq_comm (a := v)]
    · simp [same, Ne.symm same]

theorem lookup_tableOf {entries : List (Byte × Bits)} (distinct : (entries.map Prod.fst).Nodup) {s : Byte} {c : Bits} :
    Symtab.lookup (tableOf entries) s = some c ↔ (s, c) ∈ entries := by
  rw [tableOf, lookup_foldl_insert entries [] distinct]
  simp [Symtab.lookup]

/-! ### Code trees (R172, R173) -/

/-- The symbols at the leaves of a code tree, from the left. -/
def CodeTree.symbols : CodeTree → List Byte
  | .leaf s => [s]
  | .node l r => l.symbols ++ r.symbols

theorem CodeTree.symbols_pos (tree : CodeTree) : 1 ≤ tree.symbols.length := by
  induction tree with
  | leaf s => exact Nat.le_refl 1
  | node l r ihl _ => exact ihl.trans (by simp [symbols])

theorem treeCodes_map_fst (tree : CodeTree) : ∀ pre : Bits, (treeCodes pre tree).map Prod.fst = tree.symbols := by
  induction tree with
  | leaf s => simp [treeCodes, CodeTree.symbols]
  | node l r ihl ihr => simp [treeCodes, CodeTree.symbols, ihl, ihr]

/-- The codes of a tree are the paths to its leaves (R173). -/
theorem mem_treeCodes {s : Byte} {c : Bits} (tree : CodeTree) : ∀ pre : Bits,
    (s, c) ∈ treeCodes pre tree ↔ ∃ path, c = pre ++ path ∧ tree.leafAt path = some s := by
  induction tree with
  | leaf x =>
    intro pre
    simp only [treeCodes, List.mem_singleton, Prod.mk.injEq]
    constructor
    · rintro ⟨rfl, rfl⟩
      exact ⟨[], by simp, rfl⟩
    · rintro ⟨path, rfl, found⟩
      cases path with
      | nil => exact ⟨(Option.some.inj found).symm, by simp⟩
      | cons b path => exact nomatch found
  | node l r ihl ihr =>
    intro pre
    simp only [treeCodes, List.mem_append, ihl, ihr, List.append_assoc, List.singleton_append]
    constructor
    · rintro (⟨path, rfl, found⟩ | ⟨path, rfl, found⟩)
      · exact ⟨false :: path, rfl, found⟩
      · exact ⟨true :: path, rfl, found⟩
    · rintro ⟨path, rfl, found⟩
      match path, found with
      | false :: path, found => exact .inl ⟨path, rfl, found⟩
      | true :: path, found => exact .inr ⟨path, rfl, found⟩

/-- No path to a leaf goes on to another leaf (R177). -/
theorem CodeTree.leafAt_append {s s' : Byte} {d : Bits} (tree : CodeTree) : ∀ c : Bits,
    tree.leafAt c = some s → tree.leafAt (c ++ d) = some s' → d = [] := by
  induction tree with
  | leaf x =>
    intro c found found'
    match c, d, found, found' with
    | [], [], _, _ => rfl
  | node l r ihl ihr =>
    intro c found found'
    match c, found, found' with
    | false :: c, found, found' => exact ihl c found found'
    | true :: c, found, found' => exact ihr c found found'

/-- A tree of k leaves has no path to a leaf of more than k - 1 steps (R173). -/
theorem CodeTree.leafAt_length {s : Byte} (tree : CodeTree) : ∀ c : Bits,
    tree.leafAt c = some s → c.length + 1 ≤ tree.symbols.length := by
  induction tree with
  | leaf x =>
    intro c found
    match c, found with
    | [], _ => exact Nat.le_refl 1
  | node l r ihl ihr =>
    intro c found
    have left := l.symbols_pos
    have right := r.symbols_pos
    rw [symbols, List.length_append]
    match c, found with
    | false :: c, found =>
      have := ihl c found
      rw [List.length_cons]
      omega
    | true :: c, found =>
      have := ihr c found
      rw [List.length_cons]
      omega

theorem CodeTree.leafAt_pos {s : Byte} {c : Bits} {tree : CodeTree} (two : 2 ≤ tree.symbols.length)
    (found : tree.leafAt c = some s) : 1 ≤ c.length := by
  cases tree with
  | leaf x => exact absurd two (by simp [symbols])
  | node l r =>
    match c, found with
    | b :: c, _ => simp

/-! ### Merging (R172) -/

/-- One round of the merging loop. -/
theorem mergeNodes_round {n m a b o : QueueNode} {ns os others : List QueueNode} (fuel seq : Nat)
    (first : removeLeast n (m :: ns) = (a, o :: os)) (second : removeLeast o os = (b, others)) :
    mergeNodes (fuel + 1) seq (n :: m :: ns) =
      mergeNodes fuel (seq + 1) (others ++ [⟨a.weight + b.weight, seq, .node a.tree b.tree⟩]) := by
  rw [mergeNodes, first]
  simp only [second]

/-- The two nodes a round takes are the two least, where insertion numbers are distinct (R172). -/
theorem exists_twoLeast (n m : QueueNode) (ns : List QueueNode)
    (distinct : (n :: m :: ns).Pairwise fun x y => x.seq ≠ y.seq) :
    ∃ a o os b others, removeLeast n (m :: ns) = (a, o :: os) ∧ removeLeast o os = (b, others) ∧
      (n :: m :: ns).Perm (a :: b :: others) ∧ (∀ x ∈ b :: others, a.Precedes x) ∧ ∀ x ∈ others, b.Precedes x := by
  have taken := removeLeast_perm n (m :: ns)
  have least := removeLeast_precedes n (m :: ns) distinct
  rcases first : removeLeast n (m :: ns) with ⟨a, _ | ⟨o, os⟩⟩
  · rw [first] at taken
    exact absurd taken.length_eq (by simp)
  · rw [first] at taken least
    have distinct' := (List.pairwise_cons.mp ((taken.pairwise_iff fun h => Ne.symm h).mpr distinct)).2
    have taken' := removeLeast_perm o os
    have least' := removeLeast_precedes o os distinct'
    exact ⟨a, o, os, _, _, rfl, rfl, (taken'.cons a |>.trans taken).symm,
      fun x hx => least x (taken'.mem_iff.mp hx), least'⟩

/-- The merging loop builds the tree that R172 says: nodes with distinct insertion numbers below the next one merge
within the fuel of one round less than there are nodes. -/
theorem mergeNodes_mergesTo : ∀ (fuel seq : Nat) (nodes : List QueueNode), nodes ≠ [] → nodes.length ≤ fuel + 1 →
    nodes.Pairwise (fun x y => x.seq ≠ y.seq) → (∀ x ∈ nodes, x.seq < seq) →
    ∃ tree, mergeNodes fuel seq nodes = some tree ∧ MergesTo seq nodes tree
  | _, _, [], nonempty, _, _, _ => absurd rfl nonempty
  | fuel, seq, [n], _, _, _, _ => ⟨n.tree, mergeNodes_singleton fuel seq n, .root seq n⟩
  | 0, _, _ :: _ :: _, _, short, _, _ => absurd short (by simp)
  | fuel + 1, seq, n :: m :: ns, _, short, distinct, older => by
    obtain ⟨a, o, os, b, others, first, second, taken, leastA, leastB⟩ := exists_twoLeast n m ns distinct
    have kept : ∀ x ∈ others, x.seq < seq := fun x hx =>
      older x (taken.mem_iff.mpr (List.mem_cons_of_mem _ (List.mem_cons_of_mem _ hx)))
    have distinct' : others.Pairwise fun x y => x.seq ≠ y.seq :=
      (List.pairwise_cons.mp (List.pairwise_cons.mp ((taken.pairwise_iff fun h => Ne.symm h).mp distinct)).2).2
    obtain ⟨tree, merged, builds⟩ := mergeNodes_mergesTo fuel (seq + 1)
      (others ++ [⟨a.weight + b.weight, seq, .node a.tree b.tree⟩]) (by simp)
      (by have := taken.length_eq; simp at this short ⊢; omega)
      (List.pairwise_append.mpr ⟨distinct', List.pairwise_singleton _ _, fun x hx y hy => by
        rw [List.mem_singleton.mp hy]; exact (kept x hx).ne⟩)
      (fun x hx => (List.mem_append.mp hx).elim (fun h => (kept x h).trans (Nat.lt_succ_self _))
        (fun h => by rw [List.mem_singleton.mp h]; exact Nat.lt_succ_self _))
    exact ⟨tree, (mergeNodes_round fuel seq first second).trans merged,
      .merge seq _ a b others tree taken leastA leastB builds⟩

/-- Merging keeps the symbols of the nodes' trees. -/
theorem MergesTo.symbols_perm {seq : Nat} {nodes : List QueueNode} {tree : CodeTree} (h : MergesTo seq nodes tree) :
    tree.symbols.Perm (nodes.flatMap fun n => n.tree.symbols) := by
  induction h with
  | root seq n => simp
  | merge seq nodes a b others tree taken _ _ _ ih =>
    refine ih.trans (List.Perm.trans ?_ (taken.flatMap_right _).symm)
    simpa [CodeTree.symbols] using List.perm_append_comm (l₁ := others.flatMap fun n => n.tree.symbols)
      (l₂ := a.tree.symbols ++ b.tree.symbols)

/-! ### The leaves (R172) -/

theorem leafNodes_eq_mapIdx (block : List Byte) (ss : List Byte) : ∀ seq : Nat,
    leafNodes block seq ss = ss.mapIdx fun i s => ⟨block.count s, seq + i, .leaf s⟩ := by
  induction ss with
  | nil => exact fun _ => rfl
  | cons s ss ih =>
    intro seq
    rw [leafNodes, ih, List.mapIdx_cons]
    simp [freq, Nat.add_assoc, Nat.add_comm 1]

theorem leafNodes_symbols (block : List Byte) (ss : List Byte) : ∀ seq : Nat,
    ((leafNodes block seq ss).flatMap fun n => n.tree.symbols) = ss := by
  induction ss with
  | nil => exact fun _ => rfl
  | cons s ss ih => exact fun seq => by rw [leafNodes, List.flatMap_cons, ih]; rfl

theorem leafNodes_length (block : List Byte) (seq : Nat) (ss : List Byte) :
    (leafNodes block seq ss).length = ss.length := by
  rw [leafNodes_eq_mapIdx, List.length_mapIdx]

theorem leafNodes_seq (block : List Byte) (ss : List Byte) : ∀ seq : Nat,
    (leafNodes block seq ss).map QueueNode.seq = List.range' seq ss.length := by
  induction ss with
  | nil => exact fun _ => rfl
  | cons s ss ih => exact fun seq => by rw [leafNodes, List.map_cons, ih, List.length_cons, List.range'_succ]

/-! ### The builder (R175) -/

/-- Two symbols or more: the leaves merge to a tree, and the table holds its paths. -/
theorem huffBuild_of_two_le {order : LeafOrder} {block : List Byte} (two : 2 ≤ (syms order block).length) :
    ∃ tree, MergesTo (syms order block).length (leafNodes block 0 (syms order block)) tree ∧
      huffBuild order block = tableOf (treeCodes [] tree) := by
  have numbers := leafNodes_seq block (syms order block) 0
  obtain ⟨tree, merged, builds⟩ := mergeNodes_mergesTo (syms order block).length (syms order block).length
    (leafNodes block 0 (syms order block))
    (fun none => by have := leafNodes_length block 0 (syms order block); simp [none] at this; omega)
    (by rw [leafNodes_length]; exact Nat.le_succ _)
    (List.pairwise_map.mp (numbers ▸ List.nodup_range' (n := (syms order block).length)))
    (fun x hx => by
      have := numbers ▸ List.mem_map_of_mem (f := QueueNode.seq) hx
      simpa using this)
  refine ⟨tree, builds, ?_⟩
  unfold huffBuild
  split
  case h_1 none => exact absurd two (by simp [none])
  case h_2 one => exact absurd two (by simp [one])
  case h_3 s s' ss leaves =>
    rw [leaves] at merged
    simp only [merged]

theorem huffBuild_singleton {order : LeafOrder} {block : List Byte} {s : Byte} (one : syms order block = [s]) :
    huffBuild order block = [(s, [false])] := by
  unfold huffBuild
  rw [one]

/-- What `huffBuild` answers: nothing for no symbol, the code 0 for one (R174), and the paths of the merged tree for
more (R173). -/
theorem huffBuild_cases (order : LeafOrder) (block : List Byte) :
    (block = [] ∧ huffBuild order block = []) ∨
      (∃ s, syms order block = [s] ∧ huffBuild order block = [(s, [false])]) ∨
      ∃ tree, 2 ≤ (syms order block).length ∧ tree.symbols.Perm (syms order block) ∧
        huffBuild order block = tableOf (treeCodes [] tree) := by
  rcases leaves : syms order block with _ | ⟨s, _ | ⟨s', ss⟩⟩
  · exact .inl ⟨syms_eq_nil.mp leaves, by unfold huffBuild; rw [leaves]⟩
  · exact .inr (.inl ⟨s, rfl, huffBuild_singleton leaves⟩)
  · obtain ⟨tree, builds, built⟩ := huffBuild_of_two_le (order := order) (block := block) (by simp [leaves])
    refine .inr (.inr ⟨tree, by simp, ?_, built⟩)
    rw [← leaves]
    simpa only [leafNodes_symbols] using builds.symbols_perm

/-- The table of a tree with distinct symbols holds the paths to its leaves. -/
theorem lookup_treeTable {tree : CodeTree} (distinct : tree.symbols.Nodup) {s : Byte} {c : Bits} :
    Symtab.lookup (tableOf (treeCodes [] tree)) s = some c ↔ tree.leafAt c = some s := by
  rw [lookup_tableOf (by rwa [treeCodes_map_fst]), mem_treeCodes]
  simp

theorem huffBuild_sorted (order : LeafOrder) (block : List Byte) :
    (huffBuild order block).Pairwise fun e e' => e.1 < e'.1 := by
  rcases huffBuild_cases order block with ⟨-, built⟩ | ⟨s, -, built⟩ | ⟨tree, -, -, built⟩
  · rw [built]; exact List.Pairwise.nil
  · rw [built]; exact List.pairwise_singleton _ _
  · rw [built]; exact Symtab.sorted_iff.mp (tableOf_sorted_mem _).1

theorem mem_huffBuild {order : LeafOrder} {block : List Byte} {s : Byte} {c : Bits} :
    (s, c) ∈ huffBuild order block ↔ Symtab.lookup (huffBuild order block) s = some c :=
  (Symtab.lookup_eq_some (huffBuild_sorted order block)).symm

/-- The code of a block maps exactly its symbols (R177). -/
theorem lookup_huffBuild_isSome {order : LeafOrder} {block : List Byte} {s : Byte} :
    (Symtab.lookup (huffBuild order block) s).isSome = true ↔ s ∈ block := by
  rw [← mem_syms (order := order)]
  rcases huffBuild_cases order block with ⟨rfl, built⟩ | ⟨x, one, built⟩ | ⟨tree, -, symbols, built⟩
  · simp [built, Symtab.lookup, mem_syms]
  · rw [built, one, List.mem_singleton, Symtab.lookup_cons]
    split_ifs with same
    · simp [same]
    · simp [Symtab.lookup, Ne.symm same]
  · have distinct := symbols.nodup_iff.mpr (syms_nodup order block)
    rw [built, ← symbols.mem_iff, ← treeCodes_map_fst tree [], Option.isSome_iff_exists]
    simp [lookup_tableOf (entries := treeCodes [] tree) (by rwa [treeCodes_map_fst])]

/-- No code of a block begins another symbol's code (R177). -/
theorem huffBuild_prefixFree {order : LeafOrder} {block : List Byte} {s s' : Byte} {c c' : Bits} (other : s ≠ s')
    (code : Symtab.lookup (huffBuild order block) s = some c)
    (code' : Symtab.lookup (huffBuild order block) s' = some c') : ¬c <+: c' := by
  rintro ⟨d, rfl⟩
  rcases huffBuild_cases order block with ⟨-, built⟩ | ⟨x, -, built⟩ | ⟨tree, -, symbols, built⟩
  · rw [built] at code
    exact nomatch code
  · rw [built, Symtab.lookup_eq_some (List.pairwise_singleton _ _), List.mem_singleton] at code code'
    exact other ((congrArg Prod.fst code).trans (congrArg Prod.fst code').symm)
  · have distinct := symbols.nodup_iff.mpr (syms_nodup order block)
    rw [built, lookup_treeTable distinct] at code code'
    obtain rfl := tree.leafAt_append c code code'
    rw [List.append_nil, code] at code'
    exact other (Option.some.inj code')

/-- With k symbols, two or more, a code has 1 to k - 1 bits (R173). -/
theorem huffBuild_length_of_two_le {order : LeafOrder} {block : List Byte} (two : 2 ≤ (syms order block).length) :
    ∀ e ∈ huffBuild order block, 1 ≤ e.2.length ∧ e.2.length ≤ (syms order block).length - 1 := by
  rintro ⟨s, c⟩ mem
  rw [mem_huffBuild] at mem
  rcases huffBuild_cases order block with ⟨rfl, -⟩ | ⟨x, one, -⟩ | ⟨tree, -, symbols, built⟩
  · exact absurd two (by simp [syms_eq_nil.mpr rfl])
  · exact absurd two (by simp [one])
  · have distinct := symbols.nodup_iff.mpr (syms_nodup order block)
    rw [built, lookup_treeTable distinct] at mem
    have size := symbols.length_eq
    have deep := tree.leafAt_length c mem
    exact ⟨CodeTree.leafAt_pos (size ▸ two) mem, by dsimp only; omega⟩

/-- Every code has 1 to 255 bits (R173, R174, R176). -/
theorem huffBuild_length (order : LeafOrder) (block : List Byte) :
    ∀ e ∈ huffBuild order block, 1 ≤ e.2.length ∧ e.2.length ≤ 255 := by
  have limit := syms_length_le order block
  rcases huffBuild_cases order block with ⟨-, built⟩ | ⟨x, -, built⟩ | ⟨tree, two, -, -⟩
  · simp [built]
  · simp [built]
  · exact fun e mem => (huffBuild_length_of_two_le two e mem).imp_right fun le => by omega

theorem codeTooLong_eq_false {maxLen : Nat} {t : Symtab} :
    codeTooLong maxLen t = false ↔ ∀ e ∈ t, e.2.length ≤ maxLen := by
  simp [codeTooLong]

/-! ### What is asked of the code -/

/-- Settles O47: the symbols are those of the block (`lookup_huffBuild_isSome`), and a path to a leaf goes on to no
other leaf (`huffBuild_prefixFree`). -/
theorem huffmanCodeIsPrefixFree : Obligations.HuffmanCodeIsPrefixFree :=
  fun _ _ _ => ⟨fun _ => lookup_huffBuild_isSome, fun _ _ _ _ => huffBuild_prefixFree⟩

/-- Settles O48: the leaves by the recursion of `distinctAfter` and the order of `allBytes`, the merging by
`mergeNodes_mergesTo`, the codes by `lookup_treeTable`, and their lengths by the depth of a tree of k leaves. -/
theorem huffmanCodeLengths : Obligations.HuffmanCodeLengths := by
  intro order block
  refine ⟨⟨syms_nodup order block, fun s => mem_syms, distinctAfter_pairwise block [], syms_ascending_pairwise block⟩,
    fun two => ?_, fun s => huffBuild_singleton, huffBuild_length_of_two_le,
    codeTooLong_eq_false.mpr fun e mem => (huffBuild_length order block e mem).2⟩
  obtain ⟨tree, builds, built⟩ := huffBuild_of_two_le two
  have symbols : tree.symbols.Perm (syms order block) := by
    simpa only [leafNodes_symbols] using builds.symbols_perm
  refine ⟨tree, by simpa only [leafNodes_eq_mapIdx, Nat.zero_add] using builds, fun s c => ?_⟩
  rw [built, lookup_treeTable (symbols.nodup_iff.mpr (syms_nodup order block))]

end Sys2Proof.Machine

/-! PROOFS. The block partition (spec/41_huffman.md R170) and the bytes of Huffman blocks (spec/43_converters.md R265 to
R274): what is written, and that reading it gives the block back. -/

namespace Sys2Proof.Machine

open Sys2Proof

/-! ### The block partition (R170) -/

section

variable {size : Nat} (pos : 1 ≤ size)
include pos

/-- Fuel beyond the stream's length changes nothing. -/
theorem blocksFuel_congr : ∀ (fuel fuel' : Nat) (stream : List Byte), stream.length ≤ fuel → stream.length ≤ fuel' →
    blocksFuel size fuel stream = blocksFuel size fuel' stream
  | 0, 0, _, _, _ => rfl
  | 0, _ + 1, [], _, _ => rfl
  | _ + 1, 0, [], _, _ => rfl
  | _ + 1, _ + 1, [], _, _ => rfl
  | fuel + 1, fuel' + 1, s :: rest, enough, enough' => by
    have shorter : ((s :: rest).drop size).length ≤ rest.length := by
      rw [List.length_drop, List.length_cons]
      omega
    rw [blocksFuel, blocksFuel, blocksFuel_congr fuel fuel' _ (shorter.trans (Nat.le_of_succ_le_succ enough))
      (shorter.trans (Nat.le_of_succ_le_succ enough'))]

theorem blocks_of_ne_nil {stream : List Byte} (nonempty : stream ≠ []) :
    blocks size stream = stream.take size :: blocks size (stream.drop size) := by
  obtain ⟨s, rest, rfl⟩ := List.exists_cons_of_ne_nil nonempty
  have shorter : ((s :: rest).drop size).length ≤ rest.length := by
    rw [List.length_drop, List.length_cons]
    omega
  rw [blocks, List.length_cons, blocksFuel, blocksFuel_congr pos rest.length _ _ shorter le_rfl]
  rfl

/-- A property of a stream and its blocks holds where it holds of the empty stream and a first block adds to it. -/
theorem blocks_induction {P : List Byte → List (List Byte) → Prop} (nil : P [] [])
    (cons : ∀ stream parts, stream ≠ [] → P (stream.drop size) parts → P stream (stream.take size :: parts))
    (stream : List Byte) : P stream (blocks size stream) := by
  induction h : stream.length using Nat.strongRecOn generalizing stream with
  | _ n ih =>
    by_cases empty : stream = []
    · subst empty; exact nil
    · rw [blocks_of_ne_nil pos empty]
      have := List.length_pos_of_ne_nil empty
      exact cons stream _ empty (ih _ (by rw [List.length_drop]; omega) _ rfl)

theorem blocks_flatten (stream : List Byte) : (blocks size stream).flatten = stream := by
  refine blocks_induction pos (P := fun stream parts => parts.flatten = stream) rfl (fun stream parts _ ih => ?_) stream
  rw [List.flatten_cons, ih, List.take_append_drop]

theorem blocks_length (stream : List Byte) : (blocks size stream).length = (stream.length + size - 1) / size := by
  refine blocks_induction pos (P := fun stream parts => parts.length = (stream.length + size - 1) / size)
    ?_ (fun stream parts nonempty ih => ?_) stream
  · exact (Nat.div_eq_of_lt (by simp; omega)).symm
  · have := List.length_pos_of_ne_nil nonempty
    rw [List.length_cons, ih, List.length_drop]
    obtain short | long : stream.length ≤ size ∨ size < stream.length := Nat.lt_or_ge _ _ |>.symm
    · rw [Nat.div_eq_of_lt (by omega), eq_comm]
      exact Nat.div_eq_of_lt_le (by omega) (by omega)
    · rw [← Nat.add_div_right _ pos]
      congr 1
      omega

theorem blocks_getElem? (stream : List Byte) : ∀ k, k < (blocks size stream).length →
    (blocks size stream)[k]? = some ((stream.drop (k * size)).take size) := by
  refine blocks_induction pos (P := fun stream parts => ∀ k, k < parts.length →
    parts[k]? = some ((stream.drop (k * size)).take size)) (by simp) (fun stream parts _ ih k inside => ?_) stream
  cases k with
  | zero => simp
  | succ k =>
    rw [List.getElem?_cons_succ, ih k (Nat.lt_of_succ_lt_succ inside), List.drop_drop]
    congr 3
    ring

/-- A block has 1 to B symbols. -/
theorem length_of_mem_blocks {stream x : List Byte} (mem : x ∈ blocks size stream) : x ≠ [] ∧ x.length ≤ size := by
  refine blocks_induction pos (P := fun _ parts => ∀ x ∈ parts, x ≠ [] ∧ x.length ≤ size) (by simp)
    (fun stream parts nonempty ih => List.forall_mem_cons.mpr ⟨⟨?_, List.length_take_le _ _⟩, ih⟩) stream x mem
  have := List.length_pos_of_ne_nil nonempty
  exact List.ne_nil_of_length_pos (by rw [List.length_take]; omega)

end

/-- Settles O46: both clauses by the induction that takes a first block off the stream (`blocks_induction`). -/
theorem blockPartition : Obligations.BlockPartition :=
  fun _ stream pos => ⟨blocks_length pos stream, blocks_getElem? pos stream⟩

/-! ### Reading four-byte fields -/

theorem be32_append_take (n : Nat) (more : List Byte) : (be32 n ++ more).take 4 = be32 n := List.take_left' rfl

theorem be32_append_drop (n : Nat) (more : List Byte) : (be32 n ++ more).drop 4 = more := List.drop_left' rfl

/-! ### The code table (R265, R268, R269) -/

/-- The table's codes as entries: an entry whose code begins another's is that entry (R177, R269). -/
def Symtab.PrefixFree (t : Symtab) : Prop :=
  ∀ e ∈ t, ∀ e' ∈ t, e.2 <+: e'.2 → e = e'

theorem Symtab.PrefixFree.prefixFree {t : Symtab} (free : t.PrefixFree) : prefixFree t = true := by
  refine List.all_eq_true.mpr fun e mem => List.all_eq_true.mpr fun e' mem' => ?_
  rw [Bool.or_eq_true, beq_iff_eq, Bool.not_eq_true', ← Bool.not_eq_true, List.isPrefixOf_iff_prefix]
  by_cases pre : e.2 <+: e'.2
  · exact .inl (congrArg Prod.fst (free e mem e' mem' pre))
  · exact .inr pre

/-- The table's records in bytes: two of each header and those of its packed code (R101, R265). -/
theorem tableRecords_length (t : Symtab) :
    (t.flatMap tableRecord).length = (t.map fun e => 2 + (e.2.length + 7) / 8).sum := by
  rw [List.length_flatMap]
  congr 2
  funext e
  simp [tableRecord, pack_length]
  omega

theorem Symtab.insert_of_forall_lt {t : Symtab} {x : Byte} (above : ∀ e ∈ t, e.1 < x) (v : Bits) :
    Symtab.insert x v t = t ++ [(x, v)] := by
  induction t with
  | nil => rfl
  | cons e t ih =>
    obtain ⟨lt, above⟩ := List.forall_mem_cons.mp above
    rw [Symtab.insert_cons, if_neg (BitVec.ne_of_lt lt), if_neg (BitVec.lt_asymm lt), ih above, List.cons_append]

theorem Symtab.lookup_of_forall_lt {t : Symtab} {x : Byte} (above : ∀ e ∈ t, e.1 < x) : Symtab.lookup t x = none := by
  induction t with
  | nil => rfl
  | cons e t ih =>
    obtain ⟨lt, above⟩ := List.forall_mem_cons.mp above
    rw [Symtab.lookup_cons, if_neg (BitVec.ne_of_lt lt), ih above]

/-- A record of a new symbol is read as the entry that it was written for. -/
theorem parseRecords_record {maxLen : Nat} (hmax : maxLen ≤ 255) (fuel : Nat) {s : Byte} {c : Bits} (t : Symtab)
    (more : List Byte) (length : 1 ≤ c.length ∧ c.length ≤ maxLen) (fresh : Symtab.lookup t s = none) :
    parseRecords maxLen (fuel + 1) (tableRecord (s, c) ++ more) t =
      parseRecords maxLen fuel more (Symtab.insert s c t) := by
  have byte : (BitVec.ofNat 8 c.length).toNat = c.length := by
    rw [BitVec.toNat_ofNat]
    exact Nat.mod_eq_of_lt (by omega)
  have bytes : ceil8 c.length = (pack c).length := (pack_length c).symm
  rw [tableRecord, List.cons_append, List.cons_append, parseRecords, byte, if_neg (by omega), bytes,
    if_neg (by simp), fresh, if_neg (by simp), List.take_left, List.drop_left, unpack_pack_take]

theorem parseRecords_tableRecords {maxLen : Nat} (hmax : maxLen ≤ 255) (entries : Symtab) : ∀ (fuel : Nat) (t : Symtab),
    entries.length ≤ fuel → (t ++ entries).Pairwise (fun e e' => e.1 < e'.1) →
    (∀ e ∈ entries, 1 ≤ e.2.length ∧ e.2.length ≤ maxLen) →
    parseRecords maxLen fuel (entries.flatMap tableRecord) t = .ok (t ++ entries) := by
  induction entries with
  | nil =>
    intro fuel t _ _ _
    rw [List.flatMap_nil, parseRecords, List.append_nil]
  | cons e entries ih =>
    intro fuel t enough rising length
    obtain ⟨fuel, rfl⟩ : ∃ n, fuel = n + 1 := ⟨fuel - 1, by simp at enough; omega⟩
    have above : ∀ x ∈ t, x.1 < e.1 := fun x hx => (List.pairwise_append.mp rising).2.2 x hx e List.mem_cons_self
    obtain ⟨first, length⟩ := List.forall_mem_cons.mp length
    have one : t ++ e :: entries = (t ++ [e]) ++ entries := by simp
    rw [one] at rising ⊢
    rw [List.flatMap_cons, parseRecords_record hmax fuel t _ first (Symtab.lookup_of_forall_lt above),
      Symtab.insert_of_forall_lt above]
    exact ih fuel _ (Nat.le_of_succ_le_succ enough) rising length

/-- A table section of at most 256 records fits its length field, and has two bytes or more of each record (R101). -/
theorem tableRecords_length_bounds {t : Symtab} (count : t.length ≤ 256) (length : ∀ e ∈ t, e.2.length ≤ 255) :
    t.length ≤ (t.flatMap tableRecord).length ∧ (t.flatMap tableRecord).length < 2 ^ 32 := by
  have low := List.card_nsmul_le_sum (t.map fun e => 2 + (e.2.length + 7) / 8) 1
    (List.forall_mem_map.mpr fun e _ => by omega)
  have high := List.sum_le_card_nsmul (t.map fun e => 2 + (e.2.length + 7) / 8) 34
    (List.forall_mem_map.mpr fun e mem => by have := length e mem; omega)
  rw [tableRecords_length]
  simp only [List.length_map, smul_eq_mul] at low high
  omega

/-- A table section parses back to its table, whatever follows it (R268). -/
theorem parseTable_serTable {maxLen : Nat} (hmax : maxLen ≤ 255) {t : Symtab} (more : List Byte) (nonempty : t ≠ [])
    (rising : t.Pairwise fun e e' => e.1 < e'.1) (length : ∀ e ∈ t, 1 ≤ e.2.length ∧ e.2.length ≤ maxLen)
    (free : t.PrefixFree) :
    parseTable maxLen (serTable t ++ more) = .ok (t, more) := by
  obtain ⟨enough, fits⟩ :=
    tableRecords_length_bounds (Symtab.length_le rising) fun e mem => (length e mem).2.trans hmax
  have records := parseRecords_tableRecords hmax t _ [] enough rising length
  rw [List.nil_append] at records
  unfold parseTable
  simp only [serTable, List.append_assoc, be32_append_take, be32_append_drop, readBE32_be32 _ fits, List.take_left,
    List.drop_left, records]
  rw [if_neg (by simp), if_neg (by simp), if_neg nonempty, if_pos free.prefixFree]

/-! ### The data section (R266, R270, R271) -/

theorem filler_lt (n : Nat) : filler n < 8 := Nat.mod_lt _ (by decide)

/-- The data's length, read back from its field (R266, R270). -/
theorem length_of_dataLenField (includes : Bool) (n : Nat) :
    (if includes = true then dataLenField includes n - 1 else dataLenField includes n) = n := by
  cases includes <;> rfl

/-- A data section's header reads back its length and its filler (R270). -/
theorem parseDataHeader_fields (p : Params) {len fill : Nat} (rest : List Byte) (pos : 1 ≤ len)
    (fits : len + 1 < 2 ^ 32) (short : fill < 8) (room : len ≤ rest.length) :
    parseDataHeader p (be32 (dataLenField p.dataLenIncludesFiller len) ++ BitVec.ofNat 8 fill :: rest) =
      .ok (len, fill, rest) := by
  have field : dataLenField p.dataLenIncludesFiller len < 2 ^ 32 := by
    unfold dataLenField
    split <;> omega
  have byte : (BitVec.ofNat 8 fill).toNat = fill := by
    rw [BitVec.toNat_ofNat]
    omega
  have behind : (be32 (dataLenField p.dataLenIncludesFiller len) ++ BitVec.ofNat 8 fill :: rest).drop 5 = rest := rfl
  unfold parseDataHeader
  simp only [be32_append_take, be32_append_drop, readBE32_be32 _ field, behind, List.headD_cons, byte,
    length_of_dataLenField]
  rw [if_neg (by simp; omega), if_neg, if_neg (by omega), if_neg (by omega), if_neg (by omega)]
  rintro ⟨includes, zero⟩
  simp [dataLenField, includes] at zero

theorem parseDataHeader_serData (p : Params) (t : Symtab) (block more : List Byte)
    (pos : 1 ≤ (blockBits t block).length) (fits : (pack (blockBits t block)).length + 1 < 2 ^ 32) :
    parseDataHeader p (serData p t block ++ more) =
      .ok ((pack (blockBits t block)).length, filler (blockBits t block).length, pack (blockBits t block) ++ more) := by
  have header := parseDataHeader_fields p (pack (blockBits t block) ++ more)
    (by rw [pack_length]; omega) fits (filler_lt (blockBits t block).length) (by simp)
  simpa only [serData, List.append_assoc, List.cons_append, List.nil_append] using header

theorem Symtab.mem_of_symbolOf {t : Symtab} {c : Bits} {s : Byte} (found : Symtab.symbolOf t c = some s) :
    (s, c) ∈ t := by
  induction t with
  | nil => exact nomatch found
  | cons e t ih =>
    obtain ⟨x, v⟩ := e
    rw [Symtab.symbolOf] at found
    split_ifs at found with same
    · exact List.mem_cons.mpr (.inl (by rw [same, Option.some.inj found]))
    · exact List.mem_cons_of_mem _ (ih found)

theorem Symtab.symbolOf_isSome {t : Symtab} {c : Bits} {s : Byte} (mem : (s, c) ∈ t) :
    ∃ s', Symtab.symbolOf t c = some s' := by
  induction t with
  | nil => exact nomatch mem
  | cons e t ih =>
    obtain ⟨x, v⟩ := e
    rw [Symtab.symbolOf]
    split_ifs with same
    · exact ⟨x, rfl⟩
    · rcases List.mem_cons.mp mem with first | mem
      · exact absurd (congrArg Prod.snd first).symm same
      · exact ih mem

section

variable {maxLen : Nat} {t : Symtab} (free : t.PrefixFree)
include free

theorem Symtab.PrefixFree.symbolOf {s : Byte} {c : Bits} (mem : (s, c) ∈ t) : Symtab.symbolOf t c = some s := by
  obtain ⟨s', found⟩ := Symtab.symbolOf_isSome mem
  have same := free _ (Symtab.mem_of_symbolOf found) _ mem (List.prefix_refl c)
  rw [found, (Prod.mk.inj same).1]

/-- What has been read of a code, but for its last bit, is no code (R271). -/
theorem Symtab.PrefixFree.symbolOf_prefix {s : Byte} {cand rest : Bits} (mem : (s, cand ++ rest) ∈ t)
    (more : rest ≠ []) : Symtab.symbolOf t cand = none := by
  refine Option.eq_none_iff_forall_ne_some.mpr fun s' found => more ?_
  have same := free _ (Symtab.mem_of_symbolOf found) _ mem (List.prefix_append cand rest)
  exact List.self_eq_append_right.mp (congrArg Prod.snd same)

/-- The rest of a code gives its symbol, and what follows is decoded from a new candidate (R271). -/
theorem decodeBits_code {s : Byte} {ys : List Byte} {more : Bits}
    (decoded : decodeBits maxLen t more [] = .ok ys) (rest : Bits) : ∀ cand : Bits, rest ≠ [] →
    (s, cand ++ rest) ∈ t → (cand ++ rest).length ≤ maxLen →
      decodeBits maxLen t (rest ++ more) cand = .ok (s :: ys) := by
  induction rest with
  | nil => exact fun _ nonempty => absurd rfl nonempty
  | cons b rest ih =>
    intro cand _ mem length
    have grown : cand ++ b :: rest = (cand ++ [b]) ++ rest := by simp
    rw [grown] at mem length
    have within : ¬maxLen < (cand ++ [b]).length :=
      Nat.not_lt.mpr ((List.prefix_append _ rest).length_le.trans length)
    rw [List.cons_append, decodeBits, if_neg within]
    by_cases last : rest = []
    · subst last
      rw [List.append_nil] at mem
      rw [free.symbolOf mem, List.nil_append, decoded]
    · rw [free.symbolOf_prefix mem last]
      exact ih _ last mem length

/-- The codes of a block's symbols decode to the symbols (R271). -/
theorem decodeBits_blockBits (block : List Byte)
    (codes : ∀ s ∈ block, (s, Symtab.codeOf t s) ∈ t ∧ 1 ≤ (Symtab.codeOf t s).length ∧
      (Symtab.codeOf t s).length ≤ maxLen) :
    decodeBits maxLen t (blockBits t block) [] = .ok block := by
  induction block with
  | nil => rfl
  | cons s block ih =>
    obtain ⟨⟨mem, pos, le⟩, codes⟩ := List.forall_mem_cons.mp codes
    exact decodeBits_code free (ih codes) _ [] (List.ne_nil_of_length_pos pos) mem le

end

/-- A block has as many bits at least as symbols, and at most `maxLen` of each. -/
theorem blockBits_length {t : Symtab} {maxLen : Nat} (block : List Byte)
    (codes : ∀ s ∈ block, 1 ≤ (Symtab.codeOf t s).length ∧ (Symtab.codeOf t s).length ≤ maxLen) :
    block.length ≤ (blockBits t block).length ∧ (blockBits t block).length ≤ block.length * maxLen := by
  have sum : (blockBits t block).length = (block.map fun s => (Symtab.codeOf t s).length).sum := List.length_flatMap
  have low := List.card_nsmul_le_sum (block.map fun s => (Symtab.codeOf t s).length) 1
    (List.forall_mem_map.mpr fun s mem => (codes s mem).1)
  have high := List.sum_le_card_nsmul (block.map fun s => (Symtab.codeOf t s).length) maxLen
    (List.forall_mem_map.mpr fun s mem => (codes s mem).2)
  simp only [List.length_map, smul_eq_mul, Nat.mul_one] at low high
  rw [sum]
  exact ⟨low, high⟩

/-! ### Blocks and streams (R267, R272 to R275) -/

section

variable {order : LeafOrder} {block : List Byte}

theorem huffBuild_prefixFree_entries (order : LeafOrder) (block : List Byte) :
    Symtab.PrefixFree (huffBuild order block) := by
  rintro ⟨s, c⟩ mem ⟨s', c'⟩ mem' pre
  rw [mem_huffBuild] at mem mem'
  by_cases same : s = s'
  · subst same
    rw [Option.some.inj (mem.symm.trans mem')]
  · exact absurd pre (huffBuild_prefixFree same mem mem')

/-- The code of a block's symbol is its table's entry (R178). -/
theorem lookup_huffBuild_of_mem {s : Byte} (mem : s ∈ block) :
    Symtab.lookup (huffBuild order block) s = some (Symtab.codeOf (huffBuild order block) s) := by
  obtain ⟨c, code⟩ := Option.isSome_iff_exists.mp (lookup_huffBuild_isSome (order := order).mpr mem)
  rw [Symtab.codeOf, code, Option.getD_some]

end

section

variable {p : Params} {maxLen : Nat} (hmax : maxLen ≤ 255)
include hmax

/-- The sections of a table in form, and of a block of its symbols, parse back to the table and the block (R272). -/
theorem parseBlock_sections {t : Symtab} {block : List Byte} (more : List Byte) (nonempty : block ≠ [])
    (size : block.length ≤ 2 ^ 27) (rising : t.Pairwise fun e e' => e.1 < e'.1)
    (length : ∀ e ∈ t, 1 ≤ e.2.length ∧ e.2.length ≤ maxLen) (free : t.PrefixFree)
    (codes : ∀ s ∈ block, (s, Symtab.codeOf t s) ∈ t) :
    parseBlock p maxLen (serTable t ++ serData p t block ++ more) =
      .ok (t, block, (serTable t ++ serData p t block).length) := by
  obtain ⟨low, high⟩ := blockBits_length block fun s mem => length _ (codes s mem)
  have pos := List.length_pos_of_ne_nil nonempty
  have bits := high.trans (Nat.mul_le_mul size hmax)
  have entries : t ≠ [] := List.ne_nil_of_mem (codes _ (List.head_mem nonempty))
  have table := parseTable_serTable hmax (serData p t block ++ more) entries rising length free
  have header := parseDataHeader_serData p t block more (pos.trans_le low) (by rw [pack_length]; omega)
  have significant : 8 * (pack (blockBits t block)).length - filler (blockBits t block).length =
      (blockBits t block).length := by
    rw [eight_mul_pack_length, Nat.add_sub_cancel]
  have data := decodeBits_blockBits free block fun s mem => ⟨codes s mem, length _ (codes s mem)⟩
  unfold parseBlock
  simp only [List.append_assoc, table, header, List.take_left, significant, unpack_pack_take, data]
  congr 3
  simp only [List.length_append]
  omega

/-- A block's bytes parse back to its table, its symbols and its length (R275). -/
theorem parseBlock_serBlock {block : List Byte} (more : List Byte) (nonempty : block ≠ [])
    (size : block.length ≤ 2 ^ 27) (fits : ∀ e ∈ huffBuild p.leafOrder block, e.2.length ≤ maxLen) :
    parseBlock p maxLen (serBlock p block ++ more) =
      .ok (huffBuild p.leafOrder block, block, (serBlock p block).length) :=
  parseBlock_sections hmax more nonempty size (huffBuild_sorted p.leafOrder block)
    (fun e mem => ⟨(huffBuild_length p.leafOrder block e mem).1, fits e mem⟩)
    (huffBuild_prefixFree_entries p.leafOrder block) fun _ mem => mem_huffBuild.mpr (lookup_huffBuild_of_mem mem)

/-- The bytes of blocks, one behind the other, decode to the blocks' symbols and tables (R274). -/
theorem hufDecodeFuel_serBlocks (parts : List (List Byte)) : ∀ fuel : Nat,
    (parts.flatMap (serBlock p)).length ≤ fuel →
    (∀ x ∈ parts, x ≠ [] ∧ x.length ≤ 2 ^ 27 ∧ ∀ e ∈ huffBuild p.leafOrder x, e.2.length ≤ maxLen) →
    hufDecodeFuel p maxLen fuel (parts.flatMap (serBlock p)) =
      .ok (parts.flatten, parts.map (huffBuild p.leafOrder)) := by
  induction parts with
  | nil =>
    intro fuel _ _
    rw [List.flatMap_nil, hufDecodeFuel]
    rfl
  | cons x parts ih =>
    intro fuel enough each
    obtain ⟨⟨nonempty, size, fits⟩, others⟩ := List.forall_mem_cons.mp each
    have block := parseBlock_serBlock hmax (parts.flatMap (serBlock p)) nonempty size fits
    rw [List.flatMap_cons] at enough ⊢
    rcases bytes : serBlock p x with _ | ⟨b, bs⟩
    · exact absurd bytes (by simp [serBlock, serTable, be32])
    · rw [bytes] at block enough
      obtain ⟨fuel, rfl⟩ : ∃ n, fuel = n + 1 := ⟨fuel - 1, by simp at enough; omega⟩
      rw [List.cons_append] at block ⊢
      rw [hufDecodeFuel, block]
      simp only
      rw [← List.cons_append, List.drop_left, ih fuel (by simp at enough ⊢; omega) others]
      rfl

/-- The bytes of an encoded stream decode to the stream and its blocks' tables (R275). -/
theorem hufDecodeStream_hufEncodeStream {size : Nat} {stream bs : List Byte} (pos : 1 ≤ size) (le : size ≤ 2 ^ 27)
    (encoded : hufEncodeStream p maxLen size stream = .ok bs) :
    hufDecodeStream p maxLen bs = .ok (stream, (blocks size stream).map (huffBuild p.leafOrder)) := by
  obtain ⟨fits, rfl⟩ := hufEncodeStream_eq_ok.mp encoded
  have parts := hufDecodeFuel_serBlocks hmax (blocks size stream) _ le_rfl fun x mem =>
    have ⟨nonempty, length⟩ := length_of_mem_blocks pos mem
    ⟨nonempty, length.trans le, codeTooLong_eq_false.mp (fits x mem)⟩
  rwa [blocks_flatten pos] at parts

end

/-- Settles O50: the byte layout is `serTable` and `serData` written out, with the codes that the table has of the
block's symbols; the round trips are `parseBlock_serBlock` and `hufDecodeStream_hufEncodeStream`. -/
theorem huffmanRoundTrip : Obligations.HuffmanRoundTrip := by
  refine ⟨fun p block _ => ⟨huffBuild_sorted p.leafOrder block, tableRecords_length _,
    block.map (Symtab.codeOf (huffBuild p.leafOrder block)), ?_, ?_⟩,
    fun p maxLen _ hmax => ⟨fun _ more => parseBlock_serBlock hmax more,
      fun _ _ _ => hufDecodeStream_hufEncodeStream hmax,
      fun _ _ one => ⟨false, huffBuild_singleton one⟩⟩⟩
  · rw [List.map_map]
    exact List.map_congr_left fun s mem => lookup_huffBuild_of_mem mem
  · rw [← List.flatMap_def]
    simp only [serBlock, serTable, serData, dataLenField, List.append_assoc, List.singleton_append]
    rfl

end Sys2Proof.Machine

/-! PROOFS. The Huffman commands (spec/41_huffman.md R180 to R185): what each answers with its input there and its
configuration legal. -/

namespace Sys2Proof.Machine

open Sys2Proof

/-! ### What the commands share -/

/-- Bytes at the head of IN lead it, before those that lead the rest (R76). -/
theorem leadingBytes_append (bs : List Byte) (ts : List Token) :
    leadingBytes (bs.map Token.byte ++ ts) = bs ++ leadingBytes ts := by
  induction bs with
  | nil => rfl
  | cons b bs ih => exact congrArg (b :: ·) ih

theorem faultsOpen_of_exec {s : State} {i : Instr} {c : FaultCode} (clean : s.faulted = false)
    (run : exec i s = faultAfterInput Params.hw c (s.writeRanges Params.hw i) s) :
    ∃ t, exec i s = .next t ∧ FaultsOpen Params.hw i c s t :=
  ⟨_, run, faultsOpen_unspecify Params.hw i c clean⟩

/-- The state in which a Huffman command ends: tokens taken, bytes emitted, a table left, and the counts. -/
theorem complete_counts_eq (s : State) (ts : List Token) (t : Symtab) (bs : List Byte) (n0 n1 n2 : Nat) :
    complete ((((s.withInq ts).withSymtab t).pushOut bs).withCounts n0 n1 n2) = .next { s with
      inq := ts
      outq := s.outq ++ bs
      symtab := t
      csr := { s.csr with res0 := BitVec.ofNat 32 n0, res1 := BitVec.ofNat 32 n1, res2 := BitVec.ofNat 32 n2 }
      port := none
      retired := s.retired + 1 } := rfl

/-- The same of a command on a whole stream, which leaves SYMTAB where the stream has no block (R182, R183). -/
theorem complete_lastTable_eq (s : State) (ts : List Token) (t : Option Symtab) (bs : List Byte) (n0 n1 n2 : Nat) :
    complete ((((s.withInq ts).withLastTable t).pushOut bs).withCounts n0 n1 n2) = .next { s with
      inq := ts
      outq := s.outq ++ bs
      symtab := t.getD s.symtab
      csr := { s.csr with res0 := BitVec.ofNat 32 n0, res1 := BitVec.ofNat 32 n1, res2 := BitVec.ofNat 32 n2 }
      port := none
      retired := s.retired + 1 } := by
  rw [State.withLastTable_eq]
  rfl

theorem codeTooLong_eq_true {maxLen : Nat} {t : Symtab} :
    codeTooLong maxLen t = true ↔ ∃ e ∈ t, maxLen < e.2.length := by
  simp [codeTooLong]

section

variable {s : State}

theorem maxCodeLenLegal_of_range (ge : 1 ≤ s.csr.hufMaxCodeLen.toNat) (le : s.csr.hufMaxCodeLen.toNat ≤ 255) :
    s.maxCodeLenLegal = true := by
  simp [State.maxCodeLenLegal, ge, le]

theorem blockSizeLegal_of_range (ge : 1 ≤ s.csr.hufBlockSize.toNat) (le : s.csr.hufBlockSize.toNat ≤ 2 ^ 27) :
    s.blockSizeLegal = true := by
  simp only [State.blockSizeLegal, ge, le, decide_true, Bool.and_self]

/-- HUF_ENCBLK takes a full block, or a shorter one that an EOS ends (R180). -/
theorem nextBlock_eq {block : List Byte} {rest : List Token} (input : s.inq = block.map Token.byte ++ rest)
    (ends : block.length = s.csr.hufBlockSize.toNat ∨
      (block.length < s.csr.hufBlockSize.toNat ∧ ∃ more, rest = .eos :: more)) : s.nextBlock = block := by
  rw [State.nextBlock, input, leadingBytes_append]
  rcases ends with full | ⟨short, more, rfl⟩
  · exact List.take_left' full
  · rw [leadingBytes_eos, List.append_nil, List.take_of_length_le short.le]

theorem hufEncblk_ready {block : List Byte} {rest : List Token} (input : s.inq = block.map Token.byte ++ rest)
    (ends : block.length = s.csr.hufBlockSize.toNat ∨
      (block.length < s.csr.hufBlockSize.toNat ∧ ∃ more, rest = .eos :: more)) :
    inputReady Params.hw .hufEncblk s = true := by
  rcases ends with full | ⟨-, more, rfl⟩
  · have enough : s.csr.hufBlockSize.toNat ≤ (leadingBytes s.inq).length := by
      rw [input, leadingBytes_append, List.length_append, ← full]
      exact Nat.le_add_right _ _
    simp [inputReady, enough]
  · exact inputReady_of_hasEos ((hasEos_iff _).mpr (by simp [input]))

/-! ### What each command answers with STATUS.FAULT = 0 -/

variable (clean : s.faulted = false) (maxLen : s.maxCodeLenLegal = true)
include clean maxLen

theorem hufDecblk_exhausted {rest : List Token} (head : s.inq = .eos :: rest) :
    hufDecblk Params.hw s = streamExhausted rest s := by
  refine (start_ready (i := .hufDecblk) _ clean (inputReady_of_hasEos (by rw [head, hasEos_eos]))).trans ?_
  simp only [maxLen, head, Bool.not_true, Bool.false_eq_true, if_false]

theorem hufDecblk_parsed (ready : inputReady Params.hw .hufDecblk s = true) (head : s.inq.head? ≠ some .eos)
    {t : Symtab} {ys : List Byte} {n : Nat}
    (parsed : parseBlock Params.hw s.csr.hufMaxCodeLen.toNat (leadingBytes s.inq) = .ok (t, ys, n)) :
    hufDecblk Params.hw s =
      complete ((((s.withInq (s.inq.drop n)).withSymtab t).pushOut ys).withCounts n ys.length 0) := by
  refine (start_ready (i := .hufDecblk) _ clean ready).trans ?_
  simp only [maxLen, Bool.not_true, Bool.false_eq_true, if_false]
  split
  case h_1 rest exhausted => exact absurd (by rw [exhausted]; rfl) head
  case h_2 => rw [parsed]

theorem hufDecblk_fault (ready : inputReady Params.hw .hufDecblk s = true) (head : s.inq.head? ≠ some .eos)
    {c : FaultCode} (bad : parseBlock Params.hw s.csr.hufMaxCodeLen.toNat (leadingBytes s.inq) = .error c) :
    hufDecblk Params.hw s = faultAfterInput Params.hw c [] s := by
  refine (start_ready (i := .hufDecblk) _ clean ready).trans ?_
  simp only [maxLen, Bool.not_true, Bool.false_eq_true, if_false]
  split
  case h_1 rest exhausted => exact absurd (by rw [exhausted]; rfl) head
  case h_2 => rw [bad]

theorem hufDec_decoded (eos : hasEos s.inq = true) {ys : List Byte} {tables : List Symtab}
    (decoded : hufDecodeStream Params.hw s.csr.hufMaxCodeLen.toNat (leadingBytes s.inq) = .ok (ys, tables)) :
    hufDec Params.hw s = complete ((((s.withInq (afterEos s.inq)).withLastTable tables.getLast?).pushOut ys).withCounts
      (leadingBytes s.inq).length ys.length tables.length) := by
  refine (start_ready (i := .hufDec) _ clean eos).trans ?_
  simp only [maxLen, Bool.not_true, Bool.false_eq_true, if_false, decoded]

theorem hufDec_fault (eos : hasEos s.inq = true) {c : FaultCode}
    (bad : hufDecodeStream Params.hw s.csr.hufMaxCodeLen.toNat (leadingBytes s.inq) = .error c) :
    hufDec Params.hw s = faultAfterInput Params.hw c [] s := by
  refine (start_ready (i := .hufDec) _ clean eos).trans ?_
  simp only [maxLen, Bool.not_true, Bool.false_eq_true, if_false, bad]

variable (blockSize : s.blockSizeLegal = true)
include blockSize

theorem hufEncblk_exhausted {rest : List Token} (head : s.inq = .eos :: rest) :
    hufEncblk Params.hw s = streamExhausted rest s := by
  refine (start_ready (i := .hufEncblk) _ clean (inputReady_of_hasEos (by rw [head, hasEos_eos]))).trans ?_
  simp only [blockSize, maxLen, head, Bool.not_true, Bool.false_eq_true, if_false]

/-- A block is encoded, or has a code that is too long (R176). -/
theorem hufEncblk_block (ready : inputReady Params.hw .hufEncblk s = true) (head : s.inq.head? ≠ some .eos) :
    hufEncblk Params.hw s =
      if codeTooLong s.csr.hufMaxCodeLen.toNat (huffBuild .firstOccurrence s.nextBlock) then
        faultAfterInput Params.hw .hufCodeTooLong [] s
      else
        complete ((((s.withInq (s.inq.drop s.nextBlock.length)).withSymtab
          (huffBuild .firstOccurrence s.nextBlock)).pushOut (serBlock Params.hw s.nextBlock)).withCounts
          s.nextBlock.length (serBlock Params.hw s.nextBlock).length 0) := by
  refine (start_ready (i := .hufEncblk) _ clean ready).trans ?_
  simp only [blockSize, maxLen, Bool.not_true, Bool.false_eq_true, if_false]
  split
  case h_1 rest exhausted => exact absurd (by rw [exhausted]; rfl) head
  case h_2 => rfl

/-- A stream is encoded, or has a block with a code that is too long (R176). -/
theorem hufEnc_stream (eos : hasEos s.inq = true) :
    hufEnc Params.hw s =
      if (blocks s.csr.hufBlockSize.toNat (leadingBytes s.inq)).any fun x =>
        codeTooLong s.csr.hufMaxCodeLen.toNat (huffBuild .firstOccurrence x) then
        faultAfterInput Params.hw .hufCodeTooLong [] s
      else
        complete ((((s.withInq (afterEos s.inq)).withLastTable
          (lastTable Params.hw s.csr.hufBlockSize.toNat (leadingBytes s.inq))).pushOut
          (serStream Params.hw s.csr.hufBlockSize.toNat (leadingBytes s.inq))).withCounts (leadingBytes s.inq).length
          (serStream Params.hw s.csr.hufBlockSize.toNat (leadingBytes s.inq)).length
          (blocks s.csr.hufBlockSize.toNat (leadingBytes s.inq)).length) := by
  refine (start_ready (i := .hufEnc) _ clean eos).trans ?_
  simp only [blockSize, maxLen, Bool.not_true, Bool.false_eq_true, if_false]
  unfold hufEncodeStream
  split_ifs with long long' long'
  · rfl
  · exact absurd long long'
  · exact absurd long' long
  · rfl

end

/-! ### The results -/

/-- Settles O30: the block is `nextBlock`, the bytes up to the block size or the EOS. -/
theorem encodeBlockResult : Obligations.EncodeBlockResult := by
  intro s clean size size' len len'
  have blockSize := blockSizeLegal_of_range size size'
  have maxLen := maxCodeLenLegal_of_range len len'
  refine ⟨fun rest head => hufEncblk_exhausted clean maxLen blockSize head, fun block rest nonempty input ends => ?_⟩
  have head : s.inq.head? ≠ some .eos := by
    obtain ⟨b, bs, rfl⟩ := List.exists_cons_of_ne_nil nonempty
    simp [input]
  have run := hufEncblk_block clean maxLen blockSize (hufEncblk_ready input ends) head
  have taken : s.inq.drop block.length = rest := by rw [input]; exact List.drop_left' (List.length_map _)
  rw [nextBlock_eq input ends, taken] at run
  refine ⟨fun fits => ?_, fun long => faultsOpen_of_exec clean ?_⟩
  · rw [codeTooLong_eq_false.mpr fits] at run
    exact run.trans (complete_counts_eq ..)
  · rw [codeTooLong_eq_true.mpr long] at run
    exact run

/-- Settles O31: the command starts once `parseBlock` answers otherwise than HUF_TRUNCATED (`blockReady_iff`), or an
EOS is there. -/
theorem decodeBlockResult : Obligations.DecodeBlockResult := by
  intro s clean len len'
  have maxLen := maxCodeLenLegal_of_range len len'
  refine ⟨fun rest => hufDecblk_exhausted clean maxLen, fun head t ys n parsed => ?_,
    fun head c decided bad => faultsOpen_of_exec clean ?_⟩
  · have ready : inputReady Params.hw .hufDecblk s = true := (blockReady_iff _ s).mpr (.inr (by simp [parsed]))
    exact (hufDecblk_parsed clean maxLen ready head parsed).trans (complete_counts_eq ..)
  · have ready : inputReady Params.hw .hufDecblk s = true :=
      (blockReady_iff _ s).mpr (decided.imp (hasEos_iff _).mpr fun other => by simpa [bad] using other)
    exact hufDecblk_fault clean maxLen ready head bad

/-- Settles O32: `hufEnc_stream`, with the stream and the rest that IN is split into. -/
theorem encodeStreamResult : Obligations.EncodeStreamResult := by
  intro s stream rest clean size size' len len' input
  obtain ⟨leading, after, eos⟩ := stream_split stream rest
  rw [← input] at leading after eos
  have run := hufEnc_stream clean (maxCodeLenLegal_of_range len len') (blockSizeLegal_of_range size size') eos
  rw [leading, after] at run
  refine ⟨fun fits => ?_, fun ⟨x, mem, long⟩ => faultsOpen_of_exec clean ?_⟩
  · rw [if_neg, complete_lastTable_eq] at run
    · refine run.trans ?_
      rw [lastTable]
      cases (blocks s.csr.hufBlockSize.toNat stream).getLast? <;> rfl
    · simpa [codeTooLong_eq_false] using fits
  · rw [if_pos (List.any_eq_true.mpr ⟨x, mem, codeTooLong_eq_true.mpr long⟩)] at run
    exact run

/-- Settles O33: the command answers as `hufDecodeStream` does on the stream. -/
theorem decodeStreamResult : Obligations.DecodeStreamResult := by
  intro s bs rest clean len len' input
  obtain ⟨leading, after, eos⟩ := stream_split bs rest
  rw [← input] at leading after eos
  have maxLen := maxCodeLenLegal_of_range len len'
  subst leading after
  refine ⟨fun ys tables decoded => ?_, fun c bad => faultsOpen_of_exec clean (hufDec_fault clean maxLen eos bad)⟩
  refine (hufDec_decoded clean maxLen eos decoded).trans ?_
  rw [complete_lastTable_eq]
  cases tables.getLast? <;> rfl

/-! ### HUF_TBLRD (R185) -/

theorem bitsNat_testBit (bits : Bits) : ∀ k, (bitsNat bits).testBit k = bits.getD k false := by
  induction bits with
  | nil => simp [bitsNat]
  | cons b bits ih =>
    intro k
    rw [bitsNat]
    cases k with
    | zero => cases b <;> simp [Nat.testBit_zero]
    | succ k =>
      have half : (b.toNat + 2 * bitsNat bits) / 2 = bitsNat bits := by
        have := b.toNat_lt
        omega
      rw [Nat.testBit_succ, half, ih, List.getD_cons_succ]

/-- Bit j of word w of a code is the code's bit 32w + j (R185). -/
theorem codeWord_getLsbD (w : Nat) (code : Bits) (j : Nat) (hj : j < 32) :
    (codeWord w code).getLsbD j = code.getD (32 * w + j) false := by
  rw [codeWord, BitVec.getLsbD_ofNat, bitsNat_testBit]
  simp [hj, List.getD_eq_getElem?_getD]

section

variable {s : State} (clean : s.faulted = false) {sym : Byte} {w : Word}
include clean

theorem hufTblrd_found (word : w.toNat ≤ 7) {code : Bits} (found : Symtab.lookup s.symtab sym = some code) :
    execHufTblrd sym w s = .next ((s.withRes0 (lowWord code.length)).withRes1 (codeWord w.toNat code)).retire := by
  refine (start_ready (i := .hufTblrd sym w) _ clean rfl).trans ?_
  simp only [Nat.not_lt.mpr word, if_false, found, complete_eq]

theorem hufTblrd_absent (word : w.toNat ≤ 7) (absent : Symtab.lookup s.symtab sym = none) :
    execHufTblrd sym w s = .next ((s.withRes0 0).withRes1 0).retire := by
  refine (start_ready (i := .hufTblrd sym w) _ clean rfl).trans ?_
  simp only [Nat.not_lt.mpr word, if_false, absent, complete_eq]

theorem hufTblrd_badOperand (wide : 7 < w.toNat) : execHufTblrd sym w s = faultNoEffect .badOperand s := by
  refine (start_ready (i := .hufTblrd sym w) _ clean rfl).trans ?_
  simp only [wide, if_true]

end

/-- Settles O34: the word of the code bit by bit is `codeWord_getLsbD`. -/
theorem tableReadResult : Obligations.TableReadResult :=
  fun _ w _ clean =>
    ⟨fun word code found => ⟨_, hufTblrd_found clean word found, codeWord_getLsbD w.toNat code, rfl⟩,
      hufTblrd_absent clean, fun wide => faultsWith_of_exec clean (hufTblrd_badOperand clean wide)⟩

end Sys2Proof.Machine

/-! PROOFS. LZ77 (spec/42_lz77.md R220 to R231): the match finder, the replay of a record, the round trip of the record
bytes, and the results of LZ_ENC and LZ_DEC. -/

namespace Sys2Proof.Machine

open Sys2Proof

/-! ### The match length (R222) -/

theorem commonPrefix_le (lim : Nat) (xs ys : List Byte) : commonPrefix lim xs ys ≤ lim := by
  fun_induction commonPrefix lim xs ys with
  | case1 lim x xs ys ih => exact Nat.succ_le_succ ih
  | case2 | case3 => exact Nat.zero_le _

theorem getElem?_eq_of_lt_commonPrefix {lim : Nat} {xs ys : List Byte} {i : Nat}
    (shared : i < commonPrefix lim xs ys) : xs[i]? = ys[i]? := by
  fun_induction commonPrefix lim xs ys generalizing i with
  | case1 lim x xs ys ih =>
    cases i with
    | zero => rfl
    | succ i => simpa using ih (Nat.lt_of_succ_lt_succ shared)
  | case2 | case3 => exact absurd shared (Nat.not_lt_zero i)

/-- Below its limit, and inside the second list, what two lists share ends at a difference. -/
theorem getElem?_commonPrefix_ne {lim : Nat} {xs ys : List Byte} (short : commonPrefix lim xs ys < lim)
    (inside : commonPrefix lim xs ys < ys.length) :
    xs[commonPrefix lim xs ys]? ≠ ys[commonPrefix lim xs ys]? := by
  fun_induction commonPrefix lim xs ys with
  | case1 lim x xs ys ih =>
    simpa using ih (Nat.lt_of_succ_lt_succ short) (Nat.lt_of_succ_lt_succ inside)
  | case2 lim x xs y ys differ => simpa using differ
  | case3 lim xs ys notBoth =>
    cases lim with
    | zero => exact absurd short (Nat.lt_irrefl 0)
    | succ lim =>
      cases ys with
      | nil => exact absurd inside (Nat.lt_irrefl 0)
      | cons y ys =>
        cases xs with
        | nil => simp
        | cons x xs => exact (notBoth lim x xs y ys rfl rfl rfl).elim

section

variable (overlap : Bool) (stream : List Byte) (pos cap d : Nat)

theorem matchLength_le_limit : matchLength overlap stream pos cap d ≤ if overlap then cap else min cap d :=
  commonPrefix_le _ _ _

theorem matchLength_le_cap : matchLength overlap stream pos cap d ≤ cap := by
  refine (matchLength_le_limit overlap stream pos cap d).trans ?_
  split
  · exact Nat.le_refl cap
  · exact Nat.min_le_left cap d

variable {overlap stream pos cap d}

theorem getElem?_eq_of_lt_matchLength {i : Nat} (shared : i < matchLength overlap stream pos cap d) :
    stream[pos - d + i]? = stream[pos + i]? := by
  simpa only [List.getElem?_drop] using getElem?_eq_of_lt_commonPrefix shared

/-- A match that ends before its limit ends at a difference, as long as the limit keeps it in the stream. -/
theorem getElem?_matchLength_ne (rest : cap ≤ stream.length - pos)
    (short : matchLength overlap stream pos cap d < if overlap then cap else min cap d) :
    stream[pos - d + matchLength overlap stream pos cap d]? ≠
      stream[pos + matchLength overlap stream pos cap d]? := by
  have inside : matchLength overlap stream pos cap d < (stream.drop pos).length := by
    rw [List.length_drop]
    split at short <;> omega
  have differ := getElem?_commonPrefix_ne short inside
  rwa [List.getElem?_drop, List.getElem?_drop] at differ

end

/-! ### The best match (R221, R223) -/

/-- `best` is the (length, distance) of the nearest of the longest matches at the distances 1 to n - 1, where `f` is
the match length at each distance; a length of 0 is no match. -/
structure BestBelow (f : Nat → Nat) (n : Nat) (best : Nat × Nat) : Prop where
  longest : ∀ d, 1 ≤ d → d < n → f d ≤ best.1
  reached : 0 < best.1 → 1 ≤ best.2 ∧ best.2 < n ∧ f best.2 = best.1
  nearest : 0 < best.1 → ∀ d, 1 ≤ d → d < best.2 → f d < best.1

theorem BestBelow.start (f : Nat → Nat) : BestBelow f 1 (0, 0) where
  longest _ pos below := absurd pos (Nat.not_le.mpr below)
  reached pos := absurd pos (Nat.lt_irrefl 0)
  nearest pos := absurd pos (Nat.lt_irrefl 0)

/-- One more distance is tried: it replaces the best only with a strictly greater length (R223). -/
theorem BestBelow.next {f : Nat → Nat} {n : Nat} {best : Nat × Nat} (h : BestBelow f n best) (pos : 1 ≤ n) :
    BestBelow f (n + 1) (if best.1 < f n then (f n, n) else best) := by
  split
  case isTrue longer =>
    have less : ∀ d, 1 ≤ d → d < n → f d < f n := fun d ge below => (h.longest d ge below).trans_lt longer
    refine ⟨fun d ge below => ?_, fun _ => ⟨pos, Nat.lt_succ_self n, rfl⟩, fun _ => less⟩
    rcases Nat.lt_succ_iff_lt_or_eq.mp below with below | rfl
    · exact (less d ge below).le
    · exact Nat.le_refl _
  case isFalse notLonger =>
    refine ⟨fun d ge below => ?_, fun some => ?_, h.nearest⟩
    · rcases Nat.lt_succ_iff_lt_or_eq.mp below with below | rfl
      · exact h.longest d ge below
      · exact Nat.not_lt.mp notLonger
    · obtain ⟨ge, below, len⟩ := h.reached some
      exact ⟨ge, Nat.lt_succ_of_lt below, len⟩

theorem scanMatches_bestBelow (overlap : Bool) (stream : List Byte) (pos cap count : Nat) :
    ∀ {d : Nat} {best : Nat × Nat}, 1 ≤ d → BestBelow (matchLength overlap stream pos cap) d best →
      BestBelow (matchLength overlap stream pos cap) (d + count)
        (scanMatches overlap stream pos cap count d best) := by
  induction count with
  | zero => exact fun _ h => h
  | succ count ih =>
    intro d best ge h
    rw [← Nat.succ_add_eq_add_succ]
    exact ih (Nat.le_succ_of_le ge) (h.next ge)

theorem bestMatch_bestBelow (overlap : Bool) (stream : List Byte) (window maxMatch pos : Nat) :
    BestBelow (matchLength overlap stream pos (min maxMatch (min window (stream.length - pos))))
      (min pos window + 1) (bestMatch overlap stream window maxMatch pos) := by
  rw [Nat.add_comm]
  exact scanMatches_bestBelow _ _ _ _ _ (Nat.le_refl 1) (BestBelow.start _)

/-- Settles O52: the scan ends in the nearest of the longest matches (`bestMatch_bestBelow`), and a match length is the
greatest number of equal bytes by the laws of `matchLength`. -/
theorem longestNearestMatch : Obligations.LongestNearestMatch := by
  intro overlap stream window maxMatch pos
  have best := bestMatch_bestBelow overlap stream window maxMatch pos
  refine ⟨fun d ge le => best.longest d ge (Nat.lt_succ_of_le le), fun some => ?_, fun d _ _ => ?_⟩
  · obtain ⟨ge, below, len⟩ := best.reached some
    exact ⟨ge, Nat.le_of_lt_succ below, len, best.nearest some⟩
  · exact ⟨matchLength_le_limit .., fun _ => getElem?_eq_of_lt_matchLength,
      getElem?_matchLength_ne ((Nat.min_le_right _ _).trans (Nat.min_le_right _ _))⟩

/-! ### What the encoder emits (R224, R225) -/

/-- A match that the encoder may emit as a Copy: `len` bytes at `pos` that stand `dist` positions before too. -/
structure CopyAt (stream : List Byte) (window maxMatch pos len dist : Nat) : Prop where
  two_le_len : 2 ≤ len
  len_le : len ≤ min maxMatch window
  len_le_rest : len ≤ stream.length - pos
  dist_pos : 1 ≤ dist
  dist_le : dist ≤ min pos window
  agree : ∀ i, i < len → stream[pos - dist + i]? = stream[pos + i]?

theorem bestMatch_copyAt {overlap : Bool} {stream : List Byte} {window maxMatch pos : Nat}
    (long : 1 < (bestMatch overlap stream window maxMatch pos).1) :
    CopyAt stream window maxMatch pos (bestMatch overlap stream window maxMatch pos).1
      (bestMatch overlap stream window maxMatch pos).2 := by
  obtain ⟨distPos, below, len⟩ :=
    (bestMatch_bestBelow overlap stream window maxMatch pos).reached (Nat.zero_lt_of_lt long)
  have cap := len ▸ matchLength_le_cap overlap stream pos (min maxMatch (min window (stream.length - pos))) _
  exact {
    two_le_len := long
    len_le := by omega
    len_le_rest := by omega
    dist_pos := distPos
    dist_le := Nat.le_of_lt_succ below
    agree := fun i lt => getElem?_eq_of_lt_matchLength (len.symm ▸ lt) }

/-- The records describe the stream from a position to its end, each Copy by a match at its place. -/
inductive Describes (stream : List Byte) (window maxMatch : Nat) : Nat → List LzRecord → Prop
  | done : Describes stream window maxMatch stream.length []
  | literal {pos : Nat} {x : Byte} {recs : List LzRecord} (head : stream[pos]? = some x)
      (rest : Describes stream window maxMatch (pos + 1) recs) :
      Describes stream window maxMatch pos (.literal x :: recs)
  | copy {pos len dist : Nat} {recs : List LzRecord} (legal : CopyAt stream window maxMatch pos len dist)
      (rest : Describes stream window maxMatch (pos + len) recs) :
      Describes stream window maxMatch pos (.copy (BitVec.ofNat 8 dist) (BitVec.ofNat 8 len) :: recs)

theorem lzEncodeFuel_describes (overlap : Bool) (stream : List Byte) (window maxMatch fuel : Nat) :
    ∀ pos, pos ≤ stream.length → stream.length ≤ pos + fuel →
      Describes stream window maxMatch pos (lzEncodeFuel overlap stream window maxMatch fuel pos) := by
  induction fuel with
  | zero =>
    intro pos le ge
    obtain rfl : pos = stream.length := Nat.le_antisymm le ge
    exact .done
  | succ fuel ih =>
    intro pos le ge
    rw [lzEncodeFuel]
    split
    case h_1 ended =>
      obtain rfl : pos = stream.length := Nat.le_antisymm le (List.drop_eq_nil_iff.mp ended)
      exact .done
    case h_2 x more here =>
      have head : stream[pos]? = some x := by rw [← List.head?_drop, here, List.head?_cons]
      have inside : pos < stream.length := (List.getElem?_eq_some_iff.mp head).1
      dsimp only
      split
      case isTrue => exact .literal head (ih _ (by omega) (by omega))
      case isFalse long =>
        have legal := bestMatch_copyAt (Nat.not_le.mp long)
        have rest := legal.len_le_rest
        have two := legal.two_le_len
        exact .copy legal (ih _ (by omega) (by omega))

theorem lzEncode_describes (overlap : Bool) (stream : List Byte) (window maxMatch : Nat) :
    Describes stream window maxMatch 0 (lzEncode overlap stream window maxMatch) :=
  lzEncodeFuel_describes _ _ _ _ _ 0 (Nat.zero_le _) (by omega)

/-- The two numbers of a Copy fit its two bytes, as the window has at most 255 positions (R28). -/
theorem CopyAt.toNat_bytes {stream : List Byte} {window maxMatch pos len dist : Nat}
    (legal : CopyAt stream window maxMatch pos len dist) (hwindow : window ≤ 255) :
    (BitVec.ofNat 8 dist).toNat = dist ∧ (BitVec.ofNat 8 len).toNat = len := by
  have hlen := legal.len_le
  have hdist := legal.dist_le
  exact ⟨Nat.mod_eq_of_lt (by omega), Nat.mod_eq_of_lt (by omega)⟩

theorem Describes.copy_mem {stream : List Byte} {window maxMatch pos : Nat} {recs : List LzRecord}
    (h : Describes stream window maxMatch pos recs) {d l : Byte} (mem : LzRecord.copy d l ∈ recs) :
    ∃ pos len dist, CopyAt stream window maxMatch pos len dist ∧
      d = BitVec.ofNat 8 dist ∧ l = BitVec.ofNat 8 len := by
  induction h with
  | done => cases mem
  | literal head rest ih =>
    cases mem with
    | tail _ mem => exact ih mem
  | copy legal rest ih =>
    cases mem with
    | head => exact ⟨_, _, _, legal, rfl, rfl⟩
    | tail _ mem => exact ih mem

/-- Settles O53: a Copy of the encoder is a match at its place (`lzEncode_describes`), within the bounds of `CopyAt`. -/
theorem encodedCopiesAreLegal : Obligations.EncodedCopiesAreLegal := by
  intro overlap stream window maxMatch _ hwindow _ _ d l mem
  obtain ⟨pos, len, dist, legal, rfl, rfl⟩ := (lzEncode_describes overlap stream window maxMatch).copy_mem mem
  obtain ⟨distByte, lenByte⟩ := legal.toNat_bytes hwindow
  rw [distByte, lenByte]
  exact ⟨legal.dist_pos, legal.dist_le.trans (Nat.min_le_right _ _), legal.two_le_len, legal.len_le⟩

/-! ### Replaying a record (R227) -/

theorem replay_length (d n : Nat) : ∀ out, (replay d n out).length = out.length + n := by
  induction n with
  | zero => exact fun _ => rfl
  | succ n ih =>
    intro out
    rw [replay, ih, List.length_append, List.length_singleton]
    omega

theorem prefix_replay (d n : Nat) : ∀ out, out <+: replay d n out := by
  induction n with
  | zero => exact List.prefix_refl
  | succ n ih => exact fun out => (List.prefix_append out _).trans (ih _)

/-- What stood in the output stands there after a replay. -/
theorem replay_getElem?_of_lt (d n : Nat) {out : List Byte} {i : Nat} (lt : i < out.length) :
    (replay d n out)[i]? = out[i]? := by
  obtain ⟨more, eq⟩ := prefix_replay d n out
  rw [← eq, List.getElem?_append_left lt]

/-- Each byte that a replay appends is the byte `d` before it, which may be one just appended. -/
theorem replay_getElem?_appended {d : Nat} (pos : 1 ≤ d) (n : Nat) : ∀ {out : List Byte} {k : Nat},
    d ≤ out.length → k < n → (replay d n out)[out.length + k]? = (replay d n out)[out.length + k - d]? := by
  induction n with
  | zero => exact fun _ lt => absurd lt (Nat.not_lt_zero _)
  | succ n ih =>
    intro out k history lt
    rw [replay]
    cases k with
    | zero =>
      have inside : out.length - d < out.length := by omega
      rw [Nat.add_zero, replay_getElem?_of_lt _ _ (by simp), replay_getElem?_of_lt _ _ (by simp),
        List.getElem?_concat_length, List.getElem?_append_left inside, List.getD_eq_getElem?_getD,
        List.getElem?_eq_getElem inside, Option.getD_some]
    | succ k =>
      have later := ih (out := out ++ [out.getD (out.length - d) 0]) (k := k) (by simp; omega) (by omega)
      rw [List.length_append, List.length_singleton] at later
      rwa [Nat.add_comm k 1, ← Nat.add_assoc]

section

variable {window : Nat} {out : List Byte} {d l : Byte}

theorem applyRecord_copy_ok (length : l ≠ 0) (history : d.toNat ≤ min out.length window) :
    applyRecord window out (.copy d l) = .ok (replay d.toNat l.toNat out) := by
  rw [applyRecord, if_neg length, if_neg (Nat.not_lt.mpr history)]

theorem applyRecord_copy_error (bad : l = 0 ∨ min out.length window < d.toNat) :
    applyRecord window out (.copy d l) = .error .lzBadCopy := by
  rw [applyRecord]
  split_ifs with zero far
  · rfl
  · rfl
  · exact (bad.elim zero far).elim

end

/-- Settles O55: a legal Copy is a `replay`, which keeps what it finds and appends byte by byte. -/
theorem copyReplay : Obligations.CopyReplay := by
  intro window out d l dist
  have pos : 1 ≤ d.toNat := by bv_omega
  refine ⟨fun length history => ⟨_, applyRecord_copy_ok length history, replay_length _ _ _, ?_, fun k lt => ?_⟩,
    applyRecord_copy_error⟩
  · exact (List.prefix_iff_eq_take.mp (prefix_replay _ _ _)).symm
  · exact replay_getElem?_appended pos _ (history.trans (Nat.min_le_left _ _)) lt

/-! ### The round trip (R229) -/

theorem take_append_of_getElem? {stream : List Byte} {pos : Nat} {x : Byte} (head : stream[pos]? = some x) :
    stream.take pos ++ [x] = stream.take (pos + 1) := by
  rw [List.take_add_one, head, Option.toList_some]

/-- A replay of a match gives the bytes that were matched, also where the match runs into them. -/
theorem replay_take {stream : List Byte} {d : Nat} (dist : 1 ≤ d) (n : Nat) : ∀ {pos : Nat}, d ≤ pos →
    n ≤ stream.length - pos → (∀ i, i < n → stream[pos - d + i]? = stream[pos + i]?) →
    replay d n (stream.take pos) = stream.take (pos + n) := by
  induction n with
  | zero => exact fun _ _ _ => rfl
  | succ n ih =>
    intro pos history inside agree
    have next : stream[pos]? = some ((stream.take pos).getD ((stream.take pos).length - d) 0) := by
      have here := agree 0 (Nat.succ_pos n)
      rw [List.length_take_of_le (by omega), List.getD_eq_getElem?_getD, List.getElem?_take_of_lt (by omega),
        ← Nat.add_zero (pos - d), here, Nat.add_zero, List.getElem?_eq_getElem (by omega), Option.getD_some]
    rw [replay, take_append_of_getElem? next, ih (by omega) (by omega), Nat.add_assoc, Nat.add_comm 1]
    intro i lt
    have later := agree (i + 1) (Nat.succ_lt_succ lt)
    rwa [show pos + 1 - d + i = pos - d + (i + 1) by omega, Nat.add_right_comm]

/-! The bytes of a record parse back as that record, which is then applied (R228, R260, R262). -/

theorem lzDecodeFrom_literal (window : Nat) (b : Byte) (bs out : List Byte) :
    lzDecodeFrom window (recBytes (.literal b) ++ bs) out = lzDecodeFrom window bs (out ++ [b]) := rfl

theorem lzDecodeFrom_copy {window : Nat} {d l : Byte} {out : List Byte} (bs : List Byte) (dist : d ≠ 0)
    (length : l ≠ 0) (history : d.toNat ≤ min out.length window) :
    lzDecodeFrom window (recBytes (.copy d l) ++ bs) out = lzDecodeFrom window bs (replay d.toNat l.toNat out) := by
  have parsed : recordOf d l = .ok (.copy d l) := by rw [recordOf, if_neg dist, if_neg length]
  rw [recBytes, List.cons_append, List.cons_append, List.nil_append, lzDecodeFrom, parsed]
  simp only [applyRecord_copy_ok length history]

/-- Decoding keeps the stream up to the encoder's position as its output (R229). -/
theorem Describes.decode {stream : List Byte} {window maxMatch pos : Nat} {recs : List LzRecord}
    (h : Describes stream window maxMatch pos recs) (hwindow : window ≤ 255) :
    lzDecodeFrom window (lzSerialize recs) (stream.take pos) = .ok stream := by
  induction h with
  | done => rw [List.take_length]; rfl
  | literal head rest ih =>
    rw [lzSerialize, List.flatMap_cons, lzDecodeFrom_literal, take_append_of_getElem? head]
    exact ih
  | @copy pos len dist recs legal rest ih =>
    obtain ⟨distByte, lenByte⟩ := legal.toNat_bytes hwindow
    have two := legal.two_le_len
    have inside := legal.len_le_rest
    have distPos := legal.dist_pos
    have distLe := legal.dist_le
    have history : (BitVec.ofNat 8 dist).toNat ≤ min (stream.take pos).length window := by
      rwa [distByte, List.length_take_of_le (by omega)]
    rw [lzSerialize, List.flatMap_cons, lzDecodeFrom_copy _ (by bv_omega) (by bv_omega) history, distByte, lenByte,
      replay_take distPos len (distLe.trans (Nat.min_le_left _ _)) inside legal.agree]
    exact ih

/-- A record that applies under a window applies alike under a larger one (R441). -/
theorem applyRecord_of_le {window larger : Nat} (le : window ≤ larger) {out out' : List Byte} {r : LzRecord}
    (applied : applyRecord window out r = .ok out') : applyRecord larger out r = .ok out' := by
  cases r with
  | literal b => exact applied
  | copy d l =>
    by_cases bad : l = 0 ∨ min out.length window < d.toNat
    · rw [applyRecord_copy_error bad] at applied
      cases applied
    · obtain ⟨length, history⟩ := not_or.mp bad
      have near : d.toNat ≤ min out.length window := Nat.not_lt.mp history
      rw [← applied, applyRecord_copy_ok length near, applyRecord_copy_ok length (by omega)]

theorem lzDecodeFrom_of_le {window larger : Nat} (le : window ≤ larger) {bs out result : List Byte}
    (decoded : lzDecodeFrom window bs out = .ok result) : lzDecodeFrom larger bs out = .ok result := by
  fun_induction lzDecodeFrom window bs out with
  | case1 | case2 => exact decoded
  | case3 | case4 => cases decoded
  | case5 b0 b1 rest out r parsed out' applied ih =>
    rw [lzDecodeFrom, parsed]
    simp only [applyRecord_of_le le applied]
    exact ih decoded

/-- Settles O54: the records of the encoder describe the stream from its start (`lzEncode_describes`), so they decode to
it (`Describes.decode`); and each record applies alike under a larger window. -/
theorem lzRoundTrip : Obligations.LzRoundTrip :=
  ⟨fun overlap stream window maxMatch _ hwindow _ _ =>
    (lzEncode_describes overlap stream window maxMatch).decode hwindow, fun _ _ _ _ le => lzDecodeFrom_of_le le⟩

/-! ### LZ_ENC and LZ_DEC (R230, R231) -/

theorem lzSerialize_length (recs : List LzRecord) : (lzSerialize recs).length = 2 * recs.length := by
  induction recs with
  | nil => rfl
  | cons r recs ih =>
    have two : (recBytes r).length = 2 := by cases r <;> rfl
    rw [lzSerialize, List.flatMap_cons, List.length_append, two, List.length_cons, ← lzSerialize, ih]
    omega

section

variable {s : State}

theorem windowLegal_of_range (ge : 1 ≤ s.csr.lzWindow.toNat) (le : s.csr.lzWindow.toNat ≤ 255) :
    s.windowLegal = true := by
  simp [State.windowLegal, ge, le]

theorem maxMatchLegal_of_range (ge : 1 ≤ s.csr.lzMaxMatch.toNat) (le : s.csr.lzMaxMatch.toNat ≤ 255) :
    s.maxMatchLegal = true := by
  simp [State.maxMatchLegal, ge, le]

variable (clean : s.faulted = false) (eos : hasEos s.inq = true) (window : s.windowLegal = true)
include clean eos window

theorem lzEnc_stream (maxMatch : s.maxMatchLegal = true) {recs : List LzRecord}
    (encoded : lzEncode false (leadingBytes s.inq) s.csr.lzWindow.toNat s.csr.lzMaxMatch.toNat = recs) :
    lzEnc Params.hw s = complete (((s.withInq (afterEos s.inq)).pushOut (lzSerialize recs)).withCounts
      (leadingBytes s.inq).length (lzSerialize recs).length recs.length) := by
  subst encoded
  refine (start_ready (i := .lzEnc) _ clean eos).trans ?_
  simp only [window, maxMatch, Bool.not_true, Bool.false_eq_true, if_false]
  rfl

theorem lzDec_decoded {out : List Byte} (decoded : lzDecodeBytes s.csr.lzWindow.toNat (leadingBytes s.inq) = .ok out) :
    lzDec Params.hw s = complete (((s.withInq (afterEos s.inq)).pushOut out).withCounts (leadingBytes s.inq).length
      out.length ((leadingBytes s.inq).length / 2)) := by
  refine (start_ready (i := .lzDec) _ clean eos).trans ?_
  simp only [window, Bool.not_true, Bool.false_eq_true, if_false, decoded]

theorem lzDec_fault {c : FaultCode} (bad : lzDecodeBytes s.csr.lzWindow.toNat (leadingBytes s.inq) = .error c) :
    lzDec Params.hw s = faultAfterInput Params.hw c [] s := by
  refine (start_ready (i := .lzDec) _ clean eos).trans ?_
  simp only [window, Bool.not_true, Bool.false_eq_true, if_false, bad]

end

/-- Settles O35: with a stream in IN the two commands run, and each record is two bytes (`lzSerialize_length`). -/
theorem lzStreamResults : Obligations.LzStreamResults := by
  intro s stream rest clean ge le input
  obtain ⟨leading, after, eos⟩ := stream_split stream rest
  rw [← input] at leading after eos
  have window := windowLegal_of_range ge le
  subst leading after
  refine ⟨fun ge' le' => ?_, fun out decoded => lzDec_decoded clean eos window decoded,
    fun c bad => faultsOpen_of_exec clean (lzDec_fault clean eos window bad)⟩
  refine (lzEnc_stream clean eos window (maxMatchLegal_of_range ge' le') rfl).trans ?_
  rw [lzSerialize_length]
  rfl

end Sys2Proof.Machine

/-! PROOFS. The record commands (spec/43_converters.md R280, R281), what a code-table section parses to (R268, R269),
and which bytes decide a block (R268, R270 to R272). -/

namespace Sys2Proof.Machine

open Sys2Proof

/-! ### LZREC_PUT and LZREC_GET (R280, R281) -/

section

variable {s : State} (clean : s.faulted = false)
include clean

theorem exec_lzrecPut (d : Byte) (imm : Word) : exec (.lzrecPut d imm) s =
    if d ≠ 0 ∧ imm.setWidth 8 = 0#8 then faultNoEffect .badOperand s
    else complete (s.pushOut [d, imm.setWidth 8]) := by
  change execLzrecPut d imm s = _
  exact start_ready _ clean rfl

theorem exec_lzrecGet_exhausted {rest : List Token} (head : s.inq = .eos :: rest) :
    exec .lzrecGet s = streamExhausted rest s := by
  change lzrecGet Params.hw s = _
  refine (start_ready _ clean (inputReady_of_hasEos (by rw [head, hasEos_eos]))).trans ?_
  simp only [head]

theorem exec_lzrecGet_record {b0 b1 : Byte} {rest : List Token} (head : s.inq = .byte b0 :: .byte b1 :: rest) :
    exec .lzrecGet s =
      if b0 ≠ 0 ∧ b1 = 0 then faultAfterInput Params.hw .lzBadCopy [] s
      else complete ((((s.withInq rest).withRes0 (b0.setWidth 32)).withRes1 (b1.setWidth 32)).withRes2 0) := by
  change lzrecGet Params.hw s = _
  refine (start_ready _ clean (by simp [inputReady, head])).trans ?_
  simp only [head]

theorem exec_lzrecGet_truncated {b0 : Byte} {rest : List Token} (head : s.inq = .byte b0 :: .eos :: rest) :
    exec .lzrecGet s = faultAfterInput Params.hw .lzTruncated [] s := by
  change lzrecGet Params.hw s = _
  refine (start_ready _ clean (inputReady_of_hasEos (by rw [head, hasEos_byte, hasEos_eos]))).trans ?_
  simp only [head]

end

/-- Settles O36: one equation per shape of IN or of the operands (`exec_lzrecPut`, `exec_lzrecGet_exhausted`,
`exec_lzrecGet_record`, `exec_lzrecGet_truncated`), with the record's bytes as the numbers the statement writes. -/
theorem recordResults : Obligations.RecordResults := by
  intro s clean
  refine ⟨fun d v narrow item => ?_, fun d copy => faultsWith_of_exec clean ?_,
    fun rest head => exec_lzrecGet_exhausted clean head, fun b0 b1 rest head item => ?_,
    fun b0 rest head copy => faultsOpen_of_exec clean ?_,
    fun b0 rest head => faultsOpen_of_exec clean (exec_lzrecGet_truncated clean head)⟩
  · have legal : ¬(d ≠ 0 ∧ v.setWidth 8 = 0#8) := by
      rintro ⟨copy, zero⟩
      exact item copy (by bv_omega)
    rw [exec_lzrecPut clean, if_neg legal]
    rfl
  · rw [exec_lzrecPut clean, if_pos ⟨copy, rfl⟩]
  · rw [exec_lzrecGet_record clean head, if_neg fun ⟨copy, zero⟩ => item copy zero,
      BitVec.ofNat_toNat, BitVec.ofNat_toNat]
    rfl
  · rw [exec_lzrecGet_record clean head, if_pos ⟨copy, rfl⟩]
    rfl

/-! ### The code table (R268, R269) -/

/-- A record of a table section, in the statement's form: the symbol, the length byte and the packed code (R101). -/
abbrev TableRecord := Byte × Byte × List Byte

namespace TableRecord

/-- The record as it stands in the section (R101). -/
def bytes (r : TableRecord) : List Byte := r.1 :: r.2.1 :: r.2.2

/-- The entry a record is read as: its symbol and the first L bits of its bytes (R268). -/
def entry (r : TableRecord) : Byte × Bits := (r.1, (unpack r.2.2).take r.2.1.toNat)

/-- The record passes the checks on itself: a length of 1 to `maxLen` bits, and the bytes of that many bits (R268). -/
def Fits (maxLen : Nat) (r : TableRecord) : Prop :=
  1 ≤ r.2.1.toNat ∧ r.2.1.toNat ≤ maxLen ∧ r.2.2.length = ceil8 r.2.1.toNat

/-- A record with the bytes of its length has a code of that length. -/
theorem entry_length {r : TableRecord} (bytes : r.2.2.length = ceil8 r.2.1.toNat) :
    r.entry.2.length = r.2.1.toNat := by
  rw [entry, List.length_take, unpack_length, bytes, ceil8]
  omega

/-- The table of records with distinct symbols maps each symbol to its record's code, and nothing else (R268). -/
theorem lookup_tableOf_entries {records : List TableRecord} (distinct : (records.map fun r => r.1).Nodup)
    {s : Byte} {c : Bits} : Symtab.lookup (tableOf (records.map entry)) s = some c ↔
      ∃ r ∈ records, r.1 = s ∧ c = (unpack r.2.2).take r.2.1.toNat := by
  have symbols : (records.map entry).map Prod.fst = records.map fun r => r.1 := List.map_map
  rw [lookup_tableOf (by rwa [symbols]), List.mem_map]
  simp only [entry, Prod.mk.injEq, eq_comm (b := c)]

/-- A section has a byte or more for each record, so its length is fuel enough. -/
theorem length_le_bytes (records : List TableRecord) : records.length ≤ (records.flatMap bytes).length := by
  induction records with
  | nil => exact Nat.le_refl 0
  | cons r records ih =>
    rw [List.flatMap_cons, List.length_append, List.length_cons, bytes, List.length_cons]
    omega

/-- The records can be read one behind the other into the table `t`: each fits, and brings a symbol that neither `t` nor
another record has (R268). -/
structure Readable (maxLen : Nat) (t : Symtab) (records : List TableRecord) : Prop where
  fits : ∀ r ∈ records, r.Fits maxLen
  distinct : (records.map fun r => r.1).Nodup
  fresh : ∀ r ∈ records, Symtab.lookup t r.1 = none

theorem readable_cons {maxLen : Nat} {t : Symtab} {r : TableRecord} {records : List TableRecord} :
    Readable maxLen t (r :: records) ↔
      r.Fits maxLen ∧ Symtab.lookup t r.1 = none ∧ Readable maxLen (Symtab.insert r.1 r.entry.2 t) records := by
  have later (x : TableRecord) : Symtab.lookup (Symtab.insert r.1 r.entry.2 t) x.1 = none ↔
      r.1 ≠ x.1 ∧ Symtab.lookup t x.1 = none := by
    rw [Symtab.lookup_insert]
    by_cases same : r.1 = x.1 <;> simp [same]
  constructor
  · rintro ⟨fits, distinct, fresh⟩
    obtain ⟨fit, fits⟩ := List.forall_mem_cons.mp fits
    obtain ⟨new, fresh⟩ := List.forall_mem_cons.mp fresh
    obtain ⟨other, distinct⟩ := List.nodup_cons.mp distinct
    exact ⟨fit, new, fits, distinct, fun x mem =>
      (later x).mpr ⟨fun same => other (List.mem_map.mpr ⟨x, mem, same.symm⟩), fresh x mem⟩⟩
  · rintro ⟨fit, new, fits, distinct, fresh⟩
    refine ⟨List.forall_mem_cons.mpr ⟨fit, fits⟩, List.nodup_cons.mpr ⟨fun mem => ?_, distinct⟩,
      List.forall_mem_cons.mpr ⟨new, fun x mem => ((later x).mp (fresh x mem)).2⟩⟩
    obtain ⟨x, mem, same⟩ := List.mem_map.mp mem
    exact ((later x).mp (fresh x mem)).1 same.symm

end TableRecord

open TableRecord

/-- A record is read as its entry, whatever the bits above its code are (R268). -/
theorem parseRecords_bytes {maxLen : Nat} (fuel : Nat) {t : Symtab} {r : TableRecord} (more : List Byte)
    (fits : r.Fits maxLen) (fresh : Symtab.lookup t r.1 = none) :
    parseRecords maxLen (fuel + 1) (r.bytes ++ more) t =
      parseRecords maxLen fuel more (Symtab.insert r.1 r.entry.2 t) := by
  obtain ⟨pos, le, length⟩ := fits
  rw [TableRecord.bytes, List.cons_append, List.cons_append, parseRecords, if_neg (by omega), ← length,
    if_neg (by simp), fresh, if_neg (by simp), List.take_left, List.drop_left]
  rfl

/-- Readable records parse, in any order, and their entries are added to the table (R268). -/
theorem parseRecords_records {maxLen : Nat} (records : List TableRecord) : ∀ (fuel : Nat) (t : Symtab),
    records.length ≤ fuel → Readable maxLen t records →
    parseRecords maxLen fuel (records.flatMap bytes) t =
      .ok ((records.map entry).foldl (fun t e => Symtab.insert e.1 e.2 t) t) := by
  induction records with
  | nil => exact fun _ _ _ _ => by rw [List.flatMap_nil, parseRecords, List.map_nil, List.foldl_nil]
  | cons r records ih =>
    intro fuel t enough readable
    obtain ⟨fuel, rfl⟩ : ∃ n, fuel = n + 1 := ⟨fuel - 1, by simp at enough; omega⟩
    obtain ⟨fits, fresh, readable⟩ := readable_cons.mp readable
    rw [List.flatMap_cons, parseRecords_bytes fuel _ fits fresh]
    exact ih fuel _ (Nat.le_of_succ_le_succ enough) readable

/-- Bytes that parse are records, and the table holds what was there before and their entries (R268). -/
theorem records_of_parseRecords {maxLen fuel : Nat} {bs : List Byte} {t t' : Symtab}
    (parsed : parseRecords maxLen fuel bs t = .ok t') :
    ∃ records : List TableRecord, bs = records.flatMap bytes ∧ Readable maxLen t records ∧
      t' = (records.map entry).foldl (fun t e => Symtab.insert e.1 e.2 t) t := by
  fun_induction parseRecords maxLen fuel bs t with
  | case1 =>
    cases parsed
    exact ⟨[], rfl, ⟨by simp, by simp, by simp⟩, rfl⟩
  | case2 | case3 | case4 | case5 | case6 => cases parsed
  | case7 fuel s l rest t range room fresh ih =>
    obtain ⟨records, behind, readable, rfl⟩ := ih parsed
    obtain ⟨pos, le⟩ : 1 ≤ l.toNat ∧ l.toNat ≤ maxLen := by omega
    have fits : Fits maxLen (s, l, rest.take (ceil8 l.toNat)) :=
      ⟨pos, le, List.length_take_of_le (Nat.not_lt.mp room)⟩
    refine ⟨(s, l, rest.take (ceil8 l.toNat)) :: records, ?_,
      readable_cons.mpr ⟨fits, Option.not_isSome_iff_eq_none.mp fresh, readable⟩, rfl⟩
    rw [List.flatMap_cons, ← behind, TableRecord.bytes, List.cons_append, List.cons_append, List.take_append_drop]

/-- A section parses exactly when it lies within the bytes and its records parse to a table that is not empty and passes
the validity check; the rest is what follows it (R268, R269). -/
theorem parseTable_eq_ok {maxLen : Nat} {bs rest : List Byte} {t : Symtab} :
    parseTable maxLen bs = .ok (t, rest) ↔
      4 + readBE32 (bs.take 4) ≤ bs.length ∧
      parseRecords maxLen (readBE32 (bs.take 4)) ((bs.drop 4).take (readBE32 (bs.take 4))) [] = .ok t ∧
      t ≠ [] ∧ prefixFree t = true ∧ rest = bs.drop (4 + readBE32 (bs.take 4)) := by
  unfold parseTable
  constructor
  · intro parsed
    dsimp only at parsed
    split_ifs at parsed with header body
    split at parsed
    case h_1 => cases parsed
    case h_2 t' records =>
      split_ifs at parsed with empty free
      cases parsed
      rw [List.length_drop] at body
      exact ⟨by omega, records, empty, free, List.drop_drop⟩
  · rintro ⟨within, records, nonempty, free, rfl⟩
    rw [if_neg (by omega)]
    dsimp only
    rw [if_neg (by rw [List.length_drop]; omega), records]
    dsimp only
    rw [if_neg nonempty, if_pos free, List.drop_drop]

/-- Tables whose symbols rise are equal where they look up the same. -/
theorem Symtab.eq_of_lookup {t t' : Symtab} (sorted : Symtab.sorted t = true) (sorted' : Symtab.sorted t' = true)
    (same : ∀ s c, Symtab.lookup t s = some c ↔ Symtab.lookup t' s = some c) : t = t' := by
  have rising := Symtab.sorted_iff.mp sorted
  have rising' := Symtab.sorted_iff.mp sorted'
  have irrefl : Std.Irrefl fun e e' : Byte × Bits => e.1 < e'.1 := ⟨fun e => BitVec.lt_irrefl e.1⟩
  have antisymm : Std.Antisymm fun e e' : Byte × Bits => e.1 < e'.1 :=
    ⟨fun _ _ lt gt => absurd gt (BitVec.lt_asymm lt)⟩
  refine rising.eq_of_mem_iff rising' fun e => ?_
  rw [← Symtab.lookup_eq_some rising, ← Symtab.lookup_eq_some rising']
  exact same e.1 e.2

/-- The validity check of R269, in terms of the map. -/
theorem prefixFree_iff {t : Symtab} (sorted : Symtab.sorted t = true) : prefixFree t = true ↔
    ∀ s s' c c', s ≠ s' → Symtab.lookup t s = some c → Symtab.lookup t s' = some c' → ¬c <+: c' := by
  have entry {s : Byte} {c : Bits} := Symtab.lookup_eq_some (s := s) (c := c) (Symtab.sorted_iff.mp sorted)
  simp only [entry, prefixFree, List.all_eq_true, Bool.or_eq_true, beq_iff_eq, Bool.not_eq_true', ← Bool.not_eq_true,
    List.isPrefixOf_iff_prefix, or_iff_not_imp_left]
  exact ⟨fun free s s' c c' other mem mem' => free (s, c) mem (s', c') mem' other,
    fun free e mem e' mem' other => free e.1 e'.1 e.2 e'.2 other mem mem'⟩

/-- Settles O49: the section's bytes are records that can be read one behind the other (`records_of_parseRecords`), and
such records parse to their entries' table (`parseRecords_records`), which its look-ups determine. -/
theorem parsedTablesAreWellFormed : Obligations.ParsedTablesAreWellFormed := by
  intro maxLen bs t rest
  rw [parseTable_eq_ok]
  constructor
  · rintro ⟨within, parsed, nonempty, free, rfl⟩
    obtain ⟨records, laid, readable, rfl⟩ := records_of_parseRecords parsed
    obtain ⟨sorted, mem⟩ := tableOf_sorted_mem (records.map entry)
    refine ⟨nonempty, sorted, fun e he => ?_, (prefixFree_iff sorted).mp free, by rw [List.length_drop]; omega, rfl,
      records, laid, fun r hr => (readable.fits r hr).2.2, readable.distinct, fun s c => ?_⟩
    · obtain ⟨r, hr, rfl⟩ := List.mem_map.mp (mem e he)
      obtain ⟨pos, le, length⟩ := readable.fits r hr
      rw [entry_length length]
      exact ⟨pos, le⟩
    · exact lookup_tableOf_entries readable.distinct
  · rintro ⟨nonempty, sorted, lengths, free, within, rest_eq, records, laid, byteCount, distinct, entries⟩
    have fits : ∀ r ∈ records, Fits maxLen r := fun r hr => by
      have mem := (Symtab.lookup_eq_some (Symtab.sorted_iff.mp sorted)).mp ((entries r.1 _).mpr ⟨r, hr, rfl, rfl⟩)
      obtain ⟨pos, le⟩ := lengths _ mem
      rw [← entry, entry_length (byteCount r hr)] at pos le
      exact ⟨pos, le, byteCount r hr⟩
    have table : t = tableOf (records.map entry) := Symtab.eq_of_lookup sorted (tableOf_sorted_mem _).1
      fun s c => (entries s c).trans (lookup_tableOf_entries distinct).symm
    have enough : records.length ≤ readBE32 (bs.take 4) :=
      (length_le_bytes records).trans ((congrArg List.length laid).symm.trans_le (List.length_take_le _ _))
    refine ⟨by omega, ?_, nonempty, (prefixFree_iff sorted).mpr free, rest_eq⟩
    rw [table, laid]
    exact parseRecords_records records _ [] enough ⟨fits, distinct, fun _ _ => rfl⟩

/-! ### More bytes behind a block (R268, R270 to R272) -/

/-- A table section that does not run out of bytes is followed by the rest, whatever more stands behind it (R268). -/
theorem parseTable_append {maxLen : Nat} {bs : List Byte} (more : List Byte)
    (decided : parseTable maxLen bs ≠ .error .hufTruncated) :
    parseTable maxLen (bs ++ more) = (parseTable maxLen bs).map fun (t, rest) => (t, rest ++ more) := by
  unfold parseTable at decided ⊢
  have header : ¬bs.length < 4 := fun short => decided (by rw [if_pos short])
  have body : ¬(bs.drop 4).length < readBE32 (bs.take 4) := fun short => decided (by
    rw [if_neg header]
    exact if_pos short)
  have take4 : (bs ++ more).take 4 = bs.take 4 := List.take_append_of_le_length (by omega)
  have drop4 : (bs ++ more).drop 4 = bs.drop 4 ++ more := List.drop_append_of_le_length (by omega)
  simp only [take4, drop4, if_neg header, if_neg body, List.length_append]
  rw [if_neg (by omega), if_neg (by omega), List.take_append_of_le_length (by omega),
    List.drop_append_of_le_length (by omega)]
  cases parseRecords maxLen (readBE32 (bs.take 4)) ((bs.drop 4).take (readBE32 (bs.take 4))) [] with
  | error c => rfl
  | ok t =>
    dsimp only
    split_ifs <;> rfl

/-- A data header that does not run out of bytes is read alike, whatever more stands behind the data (R270). -/
theorem parseDataHeader_append {p : Params} {bs : List Byte} (more : List Byte)
    (decided : parseDataHeader p bs ≠ .error .hufTruncated) :
    parseDataHeader p (bs ++ more) = (parseDataHeader p bs).map fun (len, fill, rest) => (len, fill, rest ++ more) := by
  unfold parseDataHeader at decided ⊢
  have header : ¬bs.length < 5 := fun short => decided (by rw [if_pos short])
  have take4 : (bs ++ more).take 4 = bs.take 4 := List.take_append_of_le_length (by omega)
  have fill : ((bs ++ more).drop 4).headD 0 = (bs.drop 4).headD 0 := by
    rw [List.headD_eq_head?_getD, List.headD_eq_head?_getD, List.head?_drop, List.head?_drop,
      List.getElem?_append_left (by omega)]
  have drop5 : (bs ++ more).drop 5 = bs.drop 5 ++ more := List.drop_append_of_le_length (by omega)
  simp only [take4, fill, drop5, if_neg header, List.length_append] at decided ⊢
  rw [if_neg (by omega)]
  generalize (if p.dataLenIncludesFiller = true then readBE32 (bs.take 4) - 1 else readBE32 (bs.take 4)) = len
    at decided ⊢
  by_cases noField : p.dataLenIncludesFiller = true ∧ readBE32 (bs.take 4) = 0
  · simp only [if_pos noField]
    rfl
  by_cases noData : len = 0
  · simp only [if_neg noField, if_pos noData]
    rfl
  by_cases wide : 7 < ((bs.drop 4).headD 0).toNat
  · simp only [if_neg noField, if_neg noData, if_pos wide]
    rfl
  simp only [if_neg noField, if_neg noData, if_neg wide] at decided ⊢
  have data : ¬(bs.drop 5).length < len := fun short => decided (if_pos short)
  rw [if_neg (by omega), if_neg data]
  rfl

/-- The data that a header announces are there (R270). -/
theorem le_length_of_parseDataHeader {p : Params} {bs rest : List Byte} {len fill : Nat}
    (parsed : parseDataHeader p bs = .ok (len, fill, rest)) : len ≤ rest.length := by
  unfold parseDataHeader at parsed
  dsimp only at parsed
  split_ifs at parsed <;> cases parsed <;> omega

section

variable {p : Params} {maxLen : Nat} {bs : List Byte}

theorem parseBlock_of_table_error {c : FaultCode} (table : parseTable maxLen bs = .error c) :
    parseBlock p maxLen bs = .error c := by
  simp only [parseBlock, table]

variable {t : Symtab} {afterTable : List Byte} (table : parseTable maxLen bs = .ok (t, afterTable))
include table

theorem parseBlock_of_header_error {c : FaultCode} (header : parseDataHeader p afterTable = .error c) :
    parseBlock p maxLen bs = .error c := by
  simp only [parseBlock, table, header]

/-- Behind its table and its header, a block is what its significant bits decode to (R272). -/
theorem parseBlock_of_header {len fill : Nat} {rest : List Byte}
    (header : parseDataHeader p afterTable = .ok (len, fill, rest)) :
    parseBlock p maxLen bs = (decodeBits maxLen t ((unpack (rest.take len)).take (8 * len - fill)) []).map
      fun ys => (t, ys, bs.length - (rest.length - len)) := by
  simp only [parseBlock, table, header]
  cases decodeBits maxLen t ((unpack (rest.take len)).take (8 * len - fill)) [] <;> rfl

end

/-- Settles O51: the table section and the data header are read alike (`parseTable_append`, `parseDataHeader_append`),
the data are the first bytes behind the header, and what follows them is not counted. -/
theorem blockParsingIsDecided : Obligations.BlockParsingIsDecided := by
  intro p maxLen bs more decided
  have tableAppend := parseTable_append (maxLen := maxLen) (bs := bs) more
  rcases table : parseTable maxLen bs with c | ⟨t, afterTable⟩
  · have fault := parseBlock_of_table_error (p := p) table
    rw [table] at tableAppend
    rw [fault] at decided ⊢
    exact parseBlock_of_table_error (tableAppend (by simpa using decided))
  · rw [table] at tableAppend
    have table' := tableAppend nofun
    have headerAppend := parseDataHeader_append (p := p) (bs := afterTable) more
    rcases header : parseDataHeader p afterTable with c | ⟨len, fill, rest⟩
    · rw [header] at headerAppend
      rw [parseBlock_of_header_error table header] at decided ⊢
      exact parseBlock_of_header_error table' (headerAppend (by simpa using decided))
    · rw [header] at headerAppend
      have data := le_length_of_parseDataHeader header
      have consumed : bs.length + more.length - (rest.length + more.length - len) =
          bs.length - (rest.length - len) := by omega
      rw [parseBlock_of_header table header, parseBlock_of_header table' (headerAppend nofun),
        List.take_append_of_le_length data, List.length_append, List.length_append, consumed]

end Sys2Proof.Machine

/-! PROOFS. The cipher stage and the per-file pipeline (spec/44_cipher.md R300 to R305, spec/45_archive.md R320 to
R322): what each stage gives, and that it is undone. -/

namespace Sys2Proof.Machine

open Sys2Proof

/-! ### The cipher stage (R300 to R305) -/

/-- A second shift that undoes the first one byte by byte undoes the stage, from any index on. -/
theorem cipherFrom_cipherFrom {shift unshift : Byte → Byte → Byte} (undo : ∀ b k, unshift (shift b k) k = b)
    (ks : Nat → Byte) (bs : List Byte) : ∀ i : Nat,
    cipherFrom unshift ks i (cipherFrom shift ks i bs) = bs := by
  induction bs with
  | nil => exact fun _ => rfl
  | cons b bs ih => exact fun i => by rw [cipherFrom, cipherFrom, undo, ih]

/-- Decoding undoes encoding under the same seed (R305). -/
theorem cipherDec_cipherEnc (p : Params) (seed : BitVec 64) (bs : List Byte) :
    cipherDec p seed (cipherEnc p seed bs) = bs :=
  cipherFrom_cipherFrom BitVec.add_sub_cancel _ bs 0

theorem ofNat8_mod_256 (n : Nat) : BitVec.ofNat 8 (n % 256) = BitVec.ofNat 8 n :=
  BitVec.eq_of_toNat_eq (by simp)

section

variable (p : Params) (seed : BitVec 64) {bs : List Byte} {i : Nat} {b : Byte} (byte : bs[i]? = some b)
include byte

theorem cipherEnc_getElem? :
    (cipherEnc p seed bs)[i]? = some (BitVec.ofNat 8 ((b.toNat + (p.ks seed i).toNat) % 256)) := by
  rw [cipherEnc_eq, List.getElem?_mapIdx, byte, ofNat8_mod_256, Option.map_some]

theorem cipherDec_getElem? :
    (cipherDec p seed bs)[i]? = some (BitVec.ofNat 8 ((b.toNat + 256 - (p.ks seed i).toNat) % 256)) := by
  rw [cipherDec_eq, List.getElem?_mapIdx, byte, ofNat8_mod_256, Option.map_some]

end

/-- Settles O56: both directions map each byte by its index (`cipherEnc_eq`, `cipherDec_eq`), which keeps the length,
and subtracting what was added undoes it (`cipherDec_cipherEnc`). -/
theorem cipherLaws : Obligations.CipherLaws := by
  intro p seed bs
  refine ⟨?_, ?_, fun i b byte => ⟨cipherEnc_getElem? p seed byte, cipherDec_getElem? p seed byte⟩,
    cipherDec_cipherEnc p seed bs⟩
  · rw [cipherEnc_eq, List.length_mapIdx]
  · rw [cipherDec_eq, List.length_mapIdx]

/-! ### The per-file pipeline (R320 to R322) -/

/-- What the cipher stage of a packing gives, which is the LZ77 stage's input: `s1` of R320. -/
def cipherStage (p : Params) (c : PipeConfig) (file : List Byte) : List Byte :=
  if c.cipher then cipherEnc p c.seed file else file

theorem packStages_of_lz {c : PipeConfig} (p : Params) (file : List Byte) (lz : c.lz = true) :
    packStages p c file = lzSerialize (lzEncode p.lzOverlap (cipherStage p c file) c.window c.maxMatch) :=
  if_pos lz

theorem packStages_of_not_lz {c : PipeConfig} (p : Params) (file : List Byte) (off : c.lz = false) :
    packStages p c file = cipherStage p c file :=
  if_neg (Bool.eq_false_iff.mp off)

/-- The cipher stage undoes itself, switched on or off (R305). -/
theorem uncipher_cipherStage (p : Params) (c : PipeConfig) (file : List Byte) :
    (if c.cipher then cipherDec p c.seed (cipherStage p c file) else cipherStage p c file) = file := by
  unfold cipherStage
  split_ifs
  · exact cipherDec_cipherEnc p c.seed file
  · rfl

/-- The LZ77 stage of an unpacking gives back what the packing's had as its input, switched on or off (R229). -/
theorem unlz_packStages {c : PipeConfig} (p : Params) (file : List Byte) (hwindow : c.lz = true → c.window ≤ 255) :
    (if c.lz then lzDecodeBytes c.window (packStages p c file) else .ok (packStages p c file)) =
      .ok (cipherStage p c file) := by
  split_ifs with lz
  · rw [packStages_of_lz p file lz]
    exact (lzEncode_describes p.lzOverlap _ c.window c.maxMatch).decode (hwindow lz)
  · rw [packStages_of_not_lz p file (Bool.eq_false_iff.mpr lz)]

/-- Behind its Huffman stage, an unpacking of a packing's bytes gives the file (R321). -/
theorem unpackFile_of_packStages {p : Params} {c : PipeConfig} {file region : List Byte} {tables : List Symtab}
    (hwindow : c.lz = true → c.window ≤ 255)
    (decoded : hufDecodeStream p c.maxCodeLen region = .ok (packStages p c file, tables)) :
    unpackFile p c region = .ok (file, tables) := by
  simp only [unpackFile, decoded, unlz_packStages p file hwindow, uncipher_cipherStage]

/-- Settles O57: the three stages are undone in the reverse order, the Huffman stage by
`hufDecodeStream_hufEncodeStream`, the others by `unlz_packStages` and `uncipher_cipherStage`. -/
theorem pipelineRoundTrip : Obligations.PipelineRoundTrip := by
  intro p c file region pos size _ maxCodeLen limits packed
  have hwindow : c.lz = true → c.window ≤ 255 := fun lz =>
    have ⟨_, le, _⟩ := limits lz
    le
  exact ⟨_, unpackFile_of_packStages hwindow (hufDecodeStream_hufEncodeStream maxCodeLen pos size packed)⟩

end Sys2Proof.Machine

/-! PROOFS. The results of the archive commands that take or give whole files (spec/45_archive.md R325 to R347):
ARC_LOAD, ARC_OPEN, ARC_GETTREE, ARC_DUMP, ARC_PUTFILE and ARC_GETFILE. -/

namespace Sys2Proof.Machine

open Sys2Proof

/-! ### What the commands share -/

@[simp] theorem lowWord_of_toNat (w : Word) : lowWord w.toNat = w := by
  rw [lowWord, BitVec.ofNat_toNat, BitVec.setWidth_eq]

/-- A read of several bytes, put together from its first byte and the others. -/
theorem Mem.readBytes_cons {m : Mem} {a n : Nat} {b : Byte} {bs : List Byte} (first : Mem.read m a = some b)
    (others : Mem.readBytes m (a + 1) n = some bs) : Mem.readBytes m a (n + 1) = some (b :: bs) := by
  rw [Mem.readBytes, first, others]

/-- STATUS after the archive's state has been set (R23). -/
theorem statusPutArc_getLsbD (w r : Bool) (st : Word) (j : Nat) :
    (statusPutArcR r (statusPutArcW w st)).getLsbD j = if j = 3 then r else if j = 2 then w else st.getLsbD j := by
  rw [statusPutArcR, statusPutArcW, statusPut_getLsbD _ _ _ _ (by decide), statusPut_getLsbD _ _ _ _ (by decide)]

/-! ### ARC_LOAD (R343) -/

section

variable {s : State} (clean : s.faulted = false) (eos : hasEos s.inq = true)
include clean eos

theorem arcLoad_fits (room : (leadingBytes s.inq).length ≤ Params.hw.archSize) :
    arcLoad Params.hw s = complete (((((((s.withInq (afterEos s.inq)).withArch
      (Mem.writeBytes 0 (leadingBytes s.inq) s.arch)).withArchLen (lowWord (leadingBytes s.inq).length)).withArcFlags
      0).withTreePtr 0).withArcState false false).withRes0 (lowWord (leadingBytes s.inq).length)) := by
  refine (start_ready (i := .arcLoad) _ clean eos).trans ?_
  simp only [Nat.not_lt.mpr room, if_false]

theorem arcLoad_arcFull (full : Params.hw.archSize < (leadingBytes s.inq).length) :
    arcLoad Params.hw s = faultAfterInput Params.hw .arcFull (s.writeRanges Params.hw .arcLoad) s := by
  refine (start_ready (i := .arcLoad) _ clean eos).trans ?_
  simp only [full, if_true]
  rfl

end

/-- Settles O41: with a stream in IN the command runs (`arcLoad_fits`, `arcLoad_arcFull`), and what it has
written reads back. -/
theorem arcLoadResult : Obligations.ArcLoadResult := by
  intro s bs rest clean input
  obtain ⟨leading, after, eos⟩ := stream_split bs rest
  rw [← input] at leading after eos
  subst leading after
  refine ⟨fun room => ⟨_, arcLoad_fits clean eos room, ?_, fun a beyond => ?_, fun j => ?_, ?_⟩,
    fun full => faultsOpen_of_exec clean (arcLoad_arcFull clean eos full)⟩
  · exact Mem.readBytes_writeBytes 0 _ s.arch
  · exact Mem.read_writeBytes_outside _ _ (.inr (by simpa using beyond))
  · refine (statusPutArc_getLsbD false false s.csr.status j).trans ?_
    by_cases h3 : j = 3 <;> simp [h3]
  · rfl

/-! ### ARC_OPEN (R344) -/

/-- The flags byte of a header is legal exactly when it is one of the four values of its two low bits (R344). -/
theorem flagBits_eq_zero {fl : Byte} : fl.extractLsb' 2 6 = 0 ↔ fl.toNat < 4 := by
  have := fl.isLt
  rw [← BitVec.toNat_inj, BitVec.extractLsb'_toNat, Nat.shiftRight_eq_div_pow]
  change fl.toNat / 2 ^ 2 % 2 ^ 6 = 0 ↔ _
  omega

/-- STATUS of an opened archive (R23, R344). -/
theorem statusOpened_getLsbD (st : Word) (j : Nat) :
    (statusPutQexh false (statusPutArcW false (statusPutArcR true st))).getLsbD j =
      if j = 3 then true else if j = 2 ∨ j = 1 then false else st.getLsbD j := by
  rw [statusPutQexh, statusPutArcW, statusPutArcR, statusPut_getLsbD _ _ _ _ (by decide),
    statusPut_getLsbD _ _ _ _ (by decide), statusPut_getLsbD _ _ _ _ (by decide)]
  by_cases h3 : j = 3
  · simp [h3]
  · by_cases h2 : j = 2 <;> simp [h3, h2]

section

variable {s : State} (clean : s.faulted = false)
include clean

theorem arcOpen_short (short : s.csr.archLen.toNat < 9) :
    execArcOpen s = faultNoEffect .arcBadHeader s := by
  refine (start_ready (i := .arcOpen) _ clean rfl).trans ?_
  simp only [short, if_true]

variable {fl : Byte} {pointer : List Byte} (long : 9 ≤ s.csr.archLen.toNat)
  (header : s.memRead 0 5 = .ok (fl :: pointer))
include long header

theorem arcOpen_badHeader
    (bad : 4 ≤ fl.toNat ∨ readBE32 pointer < 5 ∨ s.csr.archLen.toNat < readBE32 pointer + 4) :
    execArcOpen s = faultNoEffect .arcBadHeader s := by
  refine (start_ready (i := .arcOpen) _ clean rfl).trans ?_
  simp only [Nat.not_lt.mpr long, if_false, header, withBytes_ok, List.headD_cons, List.drop_succ_cons, List.drop_zero]
  by_cases flags : fl.extractLsb' 2 6 = 0
  · rw [if_neg (not_not.mpr flags), if_pos (bad.resolve_left (Nat.not_le.mpr (flagBits_eq_zero.mp flags)))]
  · rw [if_pos flags]

/-- Behind a good header, the tree's length decides whether the archive opens. -/
theorem arcOpen_goodHeader (flags : fl.toNat < 4) (behindHeader : 5 ≤ readBE32 pointer)
    (room : readBE32 pointer + 4 ≤ s.csr.archLen.toNat) {field : List Byte}
    (length : s.memRead (readBE32 pointer) 4 = .ok field) :
    execArcOpen s =
      if readBE32 pointer + 4 + readBE32 field ≠ s.csr.archLen.toNat then faultNoEffect .arcBadHeader s
      else complete (((((s.withArcFlags (fl.setWidth 32)).withTreePtr (lowWord (readBE32 pointer))).withStatus
        (statusPutQexh false (statusPutArcW false (statusPutArcR true s.csr.status)))).withRes0
        (lowWord (readBE32 pointer + 4))).withRes1 (lowWord (readBE32 field))) := by
  have inside : ¬(readBE32 pointer < 5 ∨ s.csr.archLen.toNat < readBE32 pointer + 4) := by omega
  refine (start_ready (i := .arcOpen) _ clean rfl).trans ?_
  simp only [Nat.not_lt.mpr long, if_false, header, withBytes_ok, List.headD_cons, List.drop_succ_cons, List.drop_zero,
    flagBits_eq_zero.mpr flags, ne_eq, not_true, inside, length]

end

/-- Settles O42: the header's five bytes are the flags byte and the pointer (`Mem.readBytes_cons`); each check that
fails faults, and behind a good header the tree's length decides (`arcOpen_goodHeader`). -/
theorem arcOpenResult : Obligations.ArcOpenResult := by
  intro s clean
  refine ⟨fun short => faultsWith_of_exec clean (arcOpen_short clean short),
    fun fl pointer long flagsByte pointerField => ?_⟩
  have header : s.memRead 0 5 = .ok (fl :: pointer) :=
    memRead_eq_ok.mpr ⟨by omega, Mem.readBytes_cons flagsByte pointerField⟩
  refine ⟨fun bad => faultsWith_of_exec clean (arcOpen_badHeader clean long header bad),
    fun field flags behindHeader room length => ?_⟩
  have run := arcOpen_goodHeader clean long header flags behindHeader room (memRead_eq_ok.mpr ⟨room, length⟩)
  refine ⟨fun unframed => faultsWith_of_exec clean (run.trans (if_pos unframed)), fun framed => ?_⟩
  refine ⟨_, run.trans (if_neg (not_not.mpr framed)), statusOpened_getLsbD s.csr.status, ?_⟩
  rw [BitVec.ofNat_toNat]
  rfl

/-! ### ARC_GETTREE and ARC_DUMP (R345, R347) -/

section

variable {s : State} (clean : s.faulted = false)
include clean

theorem arcGettree_tree (reading : statusArcR s.csr.status = true) {field body : List Byte}
    (length : s.memRead s.csr.treePtr.toNat 4 = .ok field)
    (tree : s.memRead (s.csr.treePtr.toNat + 4) (readBE32 field) = .ok body) :
    execArcGettree s = complete ((s.pushOut body).withRes0 (lowWord (readBE32 field))) := by
  refine (start_ready (i := .arcGettree) _ clean rfl).trans ?_
  simp only [reading, Bool.not_true, Bool.false_eq_true, if_false, length, tree, withBytes_ok]

theorem arcDump_archive {bytes : List Byte} (archive : s.memRead 0 s.csr.archLen.toNat = .ok bytes) :
    execArcDump s = complete ((s.pushOut bytes).withRes0 s.csr.archLen) := by
  refine (start_ready (i := .arcDump) _ clean rfl).trans ?_
  rw [archive, withBytes_ok]

end

/-- Settles O43: the reads end at or below ARCH_LEN, so they answer the bytes that stand there (`memRead_eq_ok`). -/
theorem treeAndDumpResults : Obligations.TreeAndDumpResults := by
  intro s clean
  refine ⟨fun field body reading length framed tree => ?_, fun bytes archive => ?_⟩
  · exact arcGettree_tree clean reading (memRead_eq_ok.mpr ⟨by omega, length⟩) (memRead_eq_ok.mpr ⟨framed, tree⟩)
  · exact arcDump_archive clean (memRead_eq_ok.mpr ⟨by omega, archive⟩)

/-! ### ARC_PUTFILE (R341) -/

/-- A packing can fail in the Huffman stage alone, and there in one way (R273). -/
theorem packFile_eq_error {p : Params} {c : PipeConfig} {file : List Byte} {f : FaultCode}
    (failed : packFile p c file = .error f) : f = .hufCodeTooLong := by
  unfold packFile hufEncodeStream at failed
  split_ifs at failed
  exact (Except.error.inj failed).symm

/-- The region of a file that packs has the length that the write range of ARC_PUTFILE takes (R341). -/
theorem regionLength_of_packFile {p : Params} {c : PipeConfig} {file region : List Byte}
    (packed : packFile p c file = .ok region) : regionLength p c file = region.length :=
  congrArg List.length (hufEncodeStream_eq_ok.mp packed).2

/-- ARC_PUTFILE's checks pass: the limits of LZ77 are asked for only where the archive's files are LZ77-coded. -/
theorem putfileConfigLegal_of_legal {s : State} (blockSize : s.blockSizeLegal = true)
    (maxLen : s.maxCodeLenLegal = true) (limits : s.arcLz = true → s.windowLegal = true ∧ s.maxMatchLegal = true) :
    s.putfileConfigLegal = true := by
  cases lz : s.arcLz with
  | false => simp [State.putfileConfigLegal, blockSize, maxLen, lz]
  | true =>
    obtain ⟨window, maxMatch⟩ := limits lz
    simp [State.putfileConfigLegal, blockSize, maxLen, window, maxMatch]

section

variable {s : State} (clean : s.faulted = false) (eos : hasEos s.inq = true)
  (writing : statusArcW s.csr.status = true) (legal : s.putfileConfigLegal = true)
include clean eos writing legal

theorem arcPutfile_fault {c : FaultCode} (failed : packFile Params.hw s.pipe (leadingBytes s.inq) = .error c) :
    arcPutfile Params.hw s = faultAfterInput Params.hw c (s.writeRanges Params.hw .arcPutfile) s := by
  refine (start_ready (i := .arcPutfile) _ clean eos).trans ?_
  simp only [writing, legal, Bool.not_true, Bool.false_eq_true, if_false, failed]
  rfl

variable {region : List Byte} (packed : packFile Params.hw s.pipe (leadingBytes s.inq) = .ok region)
include packed

theorem arcPutfile_arcFull (full : Params.hw.archSize < s.csr.archLen.toNat + region.length) :
    arcPutfile Params.hw s = faultAfterInput Params.hw .arcFull (s.writeRanges Params.hw .arcPutfile) s := by
  refine (start_ready (i := .arcPutfile) _ clean eos).trans ?_
  simp only [writing, legal, Bool.not_true, Bool.false_eq_true, if_false, packed, full, if_true, State.writeRanges,
    regionLength_of_packFile packed]

theorem arcPutfile_fits (room : s.csr.archLen.toNat + region.length ≤ Params.hw.archSize) :
    arcPutfile Params.hw s = complete ((((((s.withInq (afterEos s.inq)).withArch
      (Mem.writeBytes s.csr.archLen.toNat region s.arch)).withArchLen
      (lowWord (s.csr.archLen.toNat + region.length))).withLastTable
      (lastTable Params.hw s.pipe.blockSize (packStages Params.hw s.pipe (leadingBytes s.inq)))).withCounts
      s.csr.archLen.toNat region.length (leadingBytes s.inq).length).withRes3
      (highWord (leadingBytes s.inq).length)) := by
  refine (start_ready (i := .arcPutfile) _ clean eos).trans ?_
  simp only [writing, legal, Bool.not_true, Bool.false_eq_true, if_false, packed, Nat.not_lt.mpr room]

end

/-- The state in which ARC_PUTFILE ends. -/
theorem complete_putfile_eq (s : State) (ts : List Token) (m : Mem) (t : Option Symtab) (total n1 n2 n3 : Nat) :
    complete ((((((s.withInq ts).withArch m).withArchLen (lowWord total)).withLastTable t).withCounts
      s.csr.archLen.toNat n1 n2).withRes3 (highWord n3)) = .next { s with
      inq := ts
      arch := m
      symtab := t.getD s.symtab
      csr := { s.csr with
        archLen := BitVec.ofNat 32 total
        res0 := s.csr.archLen
        res1 := BitVec.ofNat 32 n1
        res2 := BitVec.ofNat 32 n2
        res3 := BitVec.ofNat 32 (n3 / 2 ^ 32) }
      port := none
      retired := s.retired + 1 } := by
  rw [State.withLastTable_eq, State.withCounts, lowWord_of_toNat]
  rfl

/-- The table of a stream's last block, in the form of the statements (R182, R341). -/
theorem lastTable_getD (size : Nat) (stream : List Byte) (t : Symtab) :
    (lastTable Params.hw size stream).getD t =
      ((blocks size stream).getLast?).elim t (huffBuild .firstOccurrence) := by
  rw [lastTable]
  cases (blocks size stream).getLast? <;> rfl

/-- Settles O39: with a stream in IN and a legal configuration the command answers as `packFile` does on the stream,
and the region it has written reads back. -/
theorem arcPutfileResult : Obligations.ArcPutfileResult := by
  intro s file rest clean writing input size size' len len' limits
  obtain ⟨leading, after, eos⟩ := stream_split file rest
  rw [← input] at leading after eos
  subst leading after
  have legal : s.putfileConfigLegal = true := by
    refine putfileConfigLegal_of_legal (blockSizeLegal_of_range size size') (maxCodeLenLegal_of_range len len') ?_
    intro lz
    obtain ⟨window, window', maxMatch, maxMatch'⟩ := limits lz
    exact ⟨windowLegal_of_range window window', maxMatchLegal_of_range maxMatch maxMatch'⟩
  refine ⟨fun region packed => ⟨fun room => ?_, fun full => ?_⟩, fun c failed => ⟨packFile_eq_error failed, ?_⟩⟩
  · have run := arcPutfile_fits clean eos writing legal packed room
    rw [complete_putfile_eq, lastTable_getD] at run
    exact ⟨_, run, Mem.readBytes_writeBytes _ region s.arch,
      fun a outside => Mem.read_writeBytes_outside region s.arch outside, rfl⟩
  · exact faultsOpen_of_exec clean (arcPutfile_arcFull clean eos writing legal packed full)
  · exact faultsOpen_of_exec clean (arcPutfile_fault clean eos writing legal failed)

/-! ### ARC_GETFILE (R346) -/

section

variable {s : State} (clean : s.faulted = false) (reading : statusArcR s.csr.status = true)
  (maxLen : s.maxCodeLenLegal = true) (window : (s.arcLz && !s.windowLegal) = false)
include clean reading maxLen window

theorem arcGetfile_badRange
    (outside : s.csr.arg0.toNat < 5 ∨ s.csr.treePtr.toNat < s.csr.arg0.toNat + s.csr.arg1.toNat) :
    arcGetfile Params.hw s = faultNoEffect .arcBadRange s := by
  refine (start_ready (i := .arcGetfile) _ clean rfl).trans ?_
  simp only [reading, maxLen, window, Bool.not_true, Bool.false_eq_true, if_false, outside, if_true]

variable {region : List Byte}
  (inside : ¬(s.csr.arg0.toNat < 5 ∨ s.csr.treePtr.toNat < s.csr.arg0.toNat + s.csr.arg1.toNat))
  (bytes : s.memRead s.csr.arg0.toNat s.csr.arg1.toNat = .ok region)
include inside bytes

theorem arcGetfile_fault {c : FaultCode} (bad : unpackFile Params.hw s.pipe region = .error c) :
    arcGetfile Params.hw s = faultAfterInput Params.hw c [] s := by
  refine (start_ready (i := .arcGetfile) _ clean rfl).trans ?_
  simp only [reading, maxLen, window, Bool.not_true, Bool.false_eq_true, if_false, inside, bytes, withBytes_ok, bad]

/-- A region that decodes to a file of the declared size is written through the quota (R329). -/
theorem arcGetfile_decoded {file : List Byte} {tables : List Symtab}
    (unpacked : unpackFile Params.hw s.pipe region = .ok (file, tables)) :
    arcGetfile Params.hw s =
      if file.length ≠ s.fileSize then faultAfterInput Params.hw .arcSizeMismatch [] s
      else
        complete ((((((s.afterQuotaWrite (quotaWrite file s.quota)).withLastTable tables.getLast?).withRes0
          (lowWord file.length)).withRes1 (highWord file.length)).withRes2
          (lowWord (quotaWrite file s.quota).written)).withRes3 (highWord (quotaWrite file s.quota).written)) := by
  refine (start_ready (i := .arcGetfile) _ clean rfl).trans ?_
  simp only [reading, maxLen, window, Bool.not_true, Bool.false_eq_true, if_false, inside, bytes, withBytes_ok,
    unpacked]

end

/-- QEXH is set exactly when a byte is suppressed, and the rest of STATUS stays (R23, R329). -/
theorem statusAfterQuota_getLsbD (suppressed : Bool) (st : Word) (j : Nat) :
    (if suppressed then statusPutQexh true st else st).getLsbD j =
      if j = 1 ∧ suppressed = true then true else st.getLsbD j := by
  cases suppressed with
  | false => simp only [Bool.false_eq_true, if_false, and_false]
  | true => simp only [if_true, and_true, statusPutQexh, statusPut_getLsbD 1 j true st (by decide)]

/-- The state in which ARC_GETFILE ends, once `w` has been written of a file of `size` bytes. -/
theorem complete_getfile_eq (s : State) (w : QuotaWrite) (t : Option Symtab) (size : Nat) :
    complete ((((((s.afterQuotaWrite w).withLastTable t).withRes0 (lowWord size)).withRes1 (highWord size)).withRes2
      (lowWord w.written)).withRes3 (highWord w.written)) = .next { s with
      outq := s.outq ++ w.out
      symtab := t.getD s.symtab
      csr := { s.csr with
        status := if w.suppressed then statusPutQexh true s.csr.status else s.csr.status
        quotaLo := BitVec.ofNat 32 w.quota
        quotaHi := BitVec.ofNat 32 (w.quota / 2 ^ 32)
        res0 := BitVec.ofNat 32 size
        res1 := BitVec.ofNat 32 (size / 2 ^ 32)
        res2 := BitVec.ofNat 32 w.written
        res3 := BitVec.ofNat 32 (w.written / 2 ^ 32) }
      port := none
      retired := s.retired + 1 } := by
  rw [State.withLastTable_eq]
  rfl

/-- Settles O44: with a legal configuration the command checks the range, answers as `unpackFile` does on the region,
and writes the file through the quota (`quotaWrite_eq`,
`complete_getfile_eq`). -/
theorem arcGetfileResult : Obligations.ArcGetfileResult := by
  intro s clean reading len len' limits _ _ size quota rfl rfl declared limit
  obtain rfl : size = s.fileSize := declared
  obtain rfl : quota = s.quota := limit
  have maxLen := maxCodeLenLegal_of_range len len'
  have window : (s.arcLz && !s.windowLegal) = false := by
    rw [Bool.and_eq_false_imp]
    intro lz
    obtain ⟨ge, le⟩ := limits lz
    rw [windowLegal_of_range ge le, Bool.not_true]
  refine ⟨fun outside => faultsWith_of_exec clean (arcGetfile_badRange clean reading maxLen window outside),
    fun region ge below within bytes => ?_⟩
  have inside : ¬(s.csr.arg0.toNat < 5 ∨ s.csr.treePtr.toNat < s.csr.arg0.toNat + s.csr.arg1.toNat) := by omega
  have read := memRead_eq_ok.mpr ⟨within, bytes⟩
  refine ⟨fun c bad => faultsOpen_of_exec clean (arcGetfile_fault clean reading maxLen window inside read bad),
    fun file tables unpacked => ?_⟩
  have run := arcGetfile_decoded clean reading maxLen window inside read unpacked
  refine ⟨fun wrong => faultsOpen_of_exec clean (run.trans (if_pos wrong)), fun size => ?_⟩
  rw [if_neg (not_not.mpr size), quotaWrite_eq, complete_getfile_eq] at run
  refine ⟨_, run, fun j => ?_, ?_⟩
  · simpa only [decide_eq_true_eq] using statusAfterQuota_getLsbD (decide (s.quota < file.length)) s.csr.status j
  · cases tables.getLast? <;> rfl

end Sys2Proof.Machine

/-! PROOFS. The control commands (spec/46_control.md R380 to R383): NOP and RESET, and the registers by number. -/

namespace Sys2Proof.Machine

open Sys2Proof

section

variable {s t u : State} {i : Instr}

/-! ### Faults stay until a reset (R381, R394) -/

/-- STATUS is written by no CSR_WR (R22, R382). -/
theorem status_writeCsr (s : State) {c : Csr} (v : Word) (writable : c.writable = true) :
    (s.writeCsr c v).csr.status = s.csr.status :=
  readCsr_writeCsr_other (c' := .status) v (by rintro rfl; cases writable)

/-- Of the completions other than RESET's, those that write STATUS write its flags alone, not FAULT. -/
theorem Completes.faulted_eq (h : Completes s i u) (other : i ≠ .reset) : u.faulted = s.faulted := by
  cases h with
  | reset => exact absurd rfl other
  | csrWr c v writable => rw [State.faulted, status_writeCsr s v writable, State.faulted]
  | hufEnc | hufDec | arcPutfile | arcBegin | arcPuttree | arcLoad | arcOpen => simp [State.faulted]
  | arcGetfile => simp [State.faulted, apply_ite statusFault]
  | _ => rfl

theorem Ends.faulted_of_faulted (h : Ends s i u) (other : i ≠ .reset) (faulted : s.faulted = true) :
    u.faulted = true := by
  cases h with
  | completes path => rw [path.faulted_eq other, faulted]
  | faults c => exact State.raise_faulted s c
  | faultsOpen c => exact State.raise_faulted s c

/-- No command but RESET clears a fault (R381). -/
theorem faulted_of_exec (other : i ≠ .reset) (faulted : s.faulted = true) (run : exec i s = .next t) :
    t.faulted = true := by
  rcases exec_next_cases run with ⟨-, -, rfl⟩ | ⟨-, rfl⟩ | ⟨-, u, ends, rfl⟩
  · exact faulted
  · exact faulted
  · exact ends.faulted_of_faulted other faulted

/-! ### NOP and RESET (R380, R381) -/

/-- NOP runs or is ignored (R394), which for NOP is the same. -/
theorem exec_nop (s : State) : exec .nop s = complete s := by
  change start Params.hw .nop s complete = _
  cases faulted : s.faulted with
  | false => exact start_ready _ faulted rfl
  | true => exact start_ignored _ faulted rfl

theorem exec_reset (s : State) : exec .reset s = complete s.resetBlock := by
  change execReset s = _
  exact start_runs _ (.inr rfl) (held_of_ready rfl)

/-- After RESET every register and every view reads 0 (R381). -/
theorem readCsr_resetBlock (s : State) (c : Csr) : s.resetBlock.readCsr c = 0 := by cases c <;> rfl

/-! ### The registers by number (R21, R382, R383) -/

/-- A number that is no register's is unassigned (R21). -/
theorem csrOf_eq_none {n : Byte} (unassigned : ∀ c : Csr, c.number ≠ n) : csrOf n = none := by
  cases named : csrOf n with
  | none => rfl
  | some c => exact absurd (number_of_csrOf named) (unassigned c)

/-- A register that CSR_WR may write reads as the value written (R21). -/
theorem readCsr_writeCsr_same (s : State) {c : Csr} (v : Word) (writable : c.writable = true) :
    (s.writeCsr c v).readCsr c = v := by
  cases c with
  | status | res0 | res1 | res2 | res3 | archLen | arcFlags | treePtr | bbBits | bbPend | hufNsym => cases writable
  | _ => rfl

theorem exec_csrWr_writable (clean : s.faulted = false) {c : Csr} (v : Word) (writable : c.writable = true) :
    exec (.csrWr c.number v) s = complete (s.writeCsr c v) := by
  change execCsrWr c.number v s = _
  refine (start_ready _ clean rfl).trans ?_
  simp only [csrOf_number, writable, if_true]

/-- Any other number, of a read-only register or unassigned, faults BAD_OPERAND (R382). -/
theorem exec_csrWr_badOperand (clean : s.faulted = false) {n : Byte} (v : Word)
    (other : ∀ c : Csr, c.writable = true → c.number ≠ n) :
    exec (.csrWr n v) s = faultNoEffect .badOperand s := by
  change execCsrWr n v s = _
  refine (start_ready _ clean rfl).trans ?_
  cases named : csrOf n with
  | none => rfl
  | some c => exact if_neg fun writable => other c writable (number_of_csrOf named)

/-- CSR_RD runs whatever FAULT is (R394). -/
theorem exec_csrRd_number (s : State) (c : Csr) :
    exec (.csrRd c.number) s = complete (s.withRes0 (s.readCsr c)) := by
  change execCsrRd c.number s = _
  refine (start_runs _ (.inr rfl) (held_of_ready rfl)).trans ?_
  simp only [csrOf_number]

theorem exec_csrRd_unassigned (s : State) {n : Byte} (unassigned : ∀ c : Csr, c.number ≠ n) :
    exec (.csrRd n) s = faultNoEffect .badOperand s := by
  change execCsrRd n s = _
  refine (start_runs _ (.inr rfl) (held_of_ready rfl)).trans ?_
  simp only [csrOf_eq_none unassigned]

/-- A host read of an unassigned number answers 0 (R21). -/
theorem hostRead_unassigned (s : State) {n : Byte} (unassigned : ∀ c : Csr, c.number ≠ n) : s.hostRead n = 0 := by
  simp only [State.hostRead, csrOf_eq_none unassigned]

end

/-! ### The statements -/

/-- Settles O20: NOP and RESET have one equation each (`exec_nop`, `exec_reset`), and FAULT stays through every end of
any other command (`faulted_of_exec`). -/
theorem nopAndResetResults : Obligations.NopAndResetResults :=
  ⟨exec_nop, fun s => ⟨_, exec_reset s, readCsr_resetBlock s, rfl⟩,
    fun _ _ _ other faulted run => faulted_of_exec other faulted run⟩

/-- Settles O22: the written register by `readCsr_writeCsr_same`, every other by `readCsr_writeCsr_other`. -/
theorem csrWriteResult : Obligations.CsrWriteResult := by
  intro s v clean
  refine ⟨fun c writable => ⟨_, exec_csrWr_writable clean v writable, ?_, fun c' other => ?_, rfl⟩,
    fun n other => faultsWith_of_exec clean (exec_csrWr_badOperand clean v other)⟩
  · exact readCsr_writeCsr_same s v writable
  · exact readCsr_writeCsr_other v other

/-- Settles O23: a number either names one register (`csrOf_number`) or is unassigned (`csrOf_eq_none`); the views are
`readCsr`'s own equations. -/
theorem csrReadResult : Obligations.CsrReadResult := by
  intro s
  refine ⟨fun c => ⟨hostRead_number s c, exec_csrRd_number s c⟩, fun n unassigned => ⟨?_, fun clean => ?_⟩,
    rfl, rfl, rfl⟩
  · exact hostRead_unassigned s unassigned
  · exact faultsWith_of_exec clean (exec_csrRd_unassigned s unassigned)

end Sys2Proof.Machine

/-! PROOFS. Faults (spec/60_exceptions.md R390 to R394): the entry into a fault, a block that has faulted, and which
fault each command raises with which effects. -/

namespace Sys2Proof.Machine

open Sys2Proof

/-! ### Fault entry (R390) -/

/-- Outside FAULT and FAULT_CODE fault entry leaves STATUS as it is (R390). -/
theorem statusPutFault_getLsbD_other (c : Byte) (st : Word) {j : Nat} (flag : j ≠ 0) (code : j < 8 ∨ 16 ≤ j) :
    (statusPutFault c st).getLsbD j = st.getLsbD j := by
  rw [statusPutFault_getLsbD, if_neg flag, if_neg (by omega)]

/-- Settles O10: the entry writes `statusPutFault` into STATUS (`State.raise_of_clean`), which sets FAULT, records the
code and keeps the other bits; the codes are R391's table. -/
theorem faultEntryRecordsTheFirst : Obligations.FaultEntryRecordsTheFirst := by
  refine ⟨fun s c => ⟨State.raise_of_faulted s c, fun clean => ?_⟩, ?_⟩
  · exact ⟨statusPutFault c.code s.csr.status, State.raise_of_clean s c clean, statusFault_putFault _ _,
      statusFaultCode_putFault _ _, fun _ flag code => statusPutFault_getLsbD_other _ _ flag code⟩
  · exact ⟨rfl, rfl, rfl, rfl, rfl, rfl, rfl, rfl, rfl, rfl, rfl, rfl, rfl, rfl, rfl, rfl, rfl⟩

/-! ### A block that has faulted (R394) -/

section

variable {s : State} {i : Instr}

/-- Every command goes through `start`, and so through its check of STATUS.FAULT. -/
theorem exec_eq_start (i : Instr) (s : State) : ∃ body, exec i s = start Params.hw i s body := by
  cases i <;> exact ⟨fun _ => _, rfl⟩

/-- RESET and CSR_RD are the two commands that run while STATUS.FAULT = 1. -/
theorem runsWhileFaulted_eq_false (notReset : i ≠ .reset) (notRead : ∀ n, i ≠ .csrRd n) :
    runsWhileFaulted i = false := by
  cases i with
  | reset => exact absurd rfl notReset
  | csrRd n => exact absurd rfl (notRead n)
  | _ => rfl

theorem exec_ignored (faulted : s.faulted = true) (ignored : runsWhileFaulted i = false) :
    exec i s = .next s.retire := by
  obtain ⟨body, run⟩ := exec_eq_start i s
  rw [run, start_ignored body faulted ignored]

/-- While STATUS.FAULT = 1 no command waits (R394). -/
theorem held_of_faulted (faulted : s.faulted = true) : held Params.hw i s = false := by
  simp [held, faulted]

/-- A fault after the first has no effect at all (R390). -/
theorem faultNoEffect_of_faulted (faulted : s.faulted = true) (c : FaultCode) :
    faultNoEffect c s = .next s.retire := by
  rw [faultNoEffect_eq, State.raise_of_faulted s c faulted]

end

/-- Settles O11: `start` ignores the commands (`exec_ignored`), and where RESET, CSR_RD and an illegal word are not
ignored, their faults have no effect any more (`faultNoEffect_of_faulted`). -/
theorem faultedBlockIgnoresCommands : Obligations.FaultedBlockIgnoresCommands := by
  intro s faulted
  have ignored {i : Instr} (notReset : i ≠ .reset) (notRead : ∀ n, i ≠ .csrRd n) : exec i s = .next s.retire :=
    exec_ignored faulted (runsWhileFaulted_eq_false notReset notRead)
  refine ⟨fun i notReset notRead => ignored notReset notRead, fun w i port decoded notReset notRead => ?_,
    fun w port illegal => ?_, exec_reset s, exec_csrRd_number s, fun n unassigned => ?_⟩
  · exact (stepRunsTheDecodedCommand s w i port decoded (held_of_faulted faulted)).trans (ignored notReset notRead)
  · exact (step_of_illegal port illegal).trans (faultNoEffect_of_faulted faulted _)
  · exact (exec_csrRd_unassigned s unassigned).trans (faultNoEffect_of_faulted faulted _)

/-! ### The codes that the codecs fail with (R391) -/

/-- Whatever `r` fails with is one of `codes`. -/
def FailsWithin {α : Type} (codes : List FaultCode) (r : Except FaultCode α) : Prop :=
  ∀ c, r = .error c → c ∈ codes

namespace FailsWithin

variable {α : Type} {codes more : List FaultCode} {r : Except FaultCode α}

theorem ok (a : α) : FailsWithin codes (.ok a : Except FaultCode α) := nofun

theorem error {c : FaultCode} (mem : c ∈ codes) : FailsWithin codes (.error c : Except FaultCode α) := by
  rintro _ ⟨⟩
  exact mem

theorem mono (h : FailsWithin codes r) (sub : codes ⊆ more) : FailsWithin more r :=
  fun c failed => sub (h c failed)

end FailsWithin

/-- What a Huffman stream can fail with when it is decoded (R268 to R274). -/
def decodeFaults : List FaultCode := [.hufTruncated, .hufBadTable, .hufBadData]

/-- What a stream of LZ77 records can fail with (R227, R228, R262). -/
def recordFaults : List FaultCode := [.lzTruncated, .lzBadCopy]

section

variable {p : Params} {maxLen : Nat}

theorem parseRecords_failsWithin (fuel : Nat) (bs : List Byte) (t : Symtab) :
    FailsWithin [.hufBadTable] (parseRecords maxLen fuel bs t) := by
  induction fuel generalizing bs t with
  | zero =>
    cases bs with
    | nil => exact .ok _
    | cons b bs => exact .error (by simp)
  | succ fuel ih =>
    match bs with
    | [] => exact .ok _
    | [_] => exact .error (by simp)
    | b :: l :: rest =>
      rw [parseRecords]
      split_ifs with length short twice
      · exact .error (by simp)
      · exact .error (by simp)
      · exact .error (by simp)
      · exact ih _ _

theorem parseTable_failsWithin (bs : List Byte) : FailsWithin decodeFaults (parseTable maxLen bs) := by
  unfold parseTable
  dsimp only
  split_ifs with short cut
  · exact .error (by simp [decodeFaults])
  · exact .error (by simp [decodeFaults])
  · split
    case h_1 c failed => exact .error ((parseRecords_failsWithin _ _ _).mono (by simp [decodeFaults]) c failed)
    case h_2 t parsed =>
      split_ifs with empty free
      · exact .error (by simp [decodeFaults])
      · exact .ok _
      · exact .error (by simp [decodeFaults])

theorem parseDataHeader_failsWithin (bs : List Byte) : FailsWithin decodeFaults (parseDataHeader p bs) := by
  unfold parseDataHeader
  dsimp only
  generalize (if p.dataLenIncludesFiller = true then _ else _ : Nat) = len
  split_ifs
  · exact .error (by simp [decodeFaults])
  · exact .error (by simp [decodeFaults])
  · exact .error (by simp [decodeFaults])
  · exact .error (by simp [decodeFaults])
  · exact .error (by simp [decodeFaults])
  · exact .ok _

theorem decodeBits_failsWithin (t : Symtab) (bits cand : Bits) :
    FailsWithin decodeFaults (decodeBits maxLen t bits cand) := by
  induction bits generalizing cand with
  | nil =>
    rw [decodeBits]
    split_ifs with ended
    · exact .ok _
    · exact .error (by simp [decodeFaults])
  | cons b bits ih =>
    rw [decodeBits]
    split_ifs with long
    · exact .error (by simp [decodeFaults])
    · split
      case h_1 =>
        split
        case h_1 => exact .ok _
        case h_2 c failed => exact .error (ih [] c failed)
      case h_2 => exact ih _

/-- A block fails as its table, its data header or its code bits do (R272). -/
theorem parseBlock_failsWithin (bs : List Byte) : FailsWithin decodeFaults (parseBlock p maxLen bs) := by
  unfold parseBlock
  split
  case h_1 c failed => exact .error (parseTable_failsWithin bs c failed)
  case h_2 =>
    split
    case h_1 c failed => exact .error (parseDataHeader_failsWithin _ c failed)
    case h_2 =>
      split
      case h_1 c failed => exact .error (decodeBits_failsWithin _ _ _ c failed)
      case h_2 => exact .ok _

theorem hufDecodeFuel_failsWithin (fuel : Nat) (bs : List Byte) :
    FailsWithin decodeFaults (hufDecodeFuel p maxLen fuel bs) := by
  induction fuel generalizing bs with
  | zero =>
    cases bs with
    | nil => exact .ok _
    | cons b bs => exact .error (by simp [decodeFaults])
  | succ fuel ih =>
    cases bs with
    | nil => exact .ok _
    | cons b bs =>
      rw [hufDecodeFuel]
      split
      case h_1 c failed => exact .error (parseBlock_failsWithin _ c failed)
      case h_2 =>
        split
        case h_1 c failed => exact .error (ih _ c failed)
        case h_2 => exact .ok _

theorem hufDecodeStream_failsWithin (bs : List Byte) : FailsWithin decodeFaults (hufDecodeStream p maxLen bs) :=
  hufDecodeFuel_failsWithin _ bs

/-- A stream fails to encode in one way alone: a code is too long (R273). -/
theorem hufEncodeStream_failsWithin (size : Nat) (stream : List Byte) :
    FailsWithin [.hufCodeTooLong] (hufEncodeStream p maxLen size stream) := by
  unfold hufEncodeStream
  split_ifs with long
  · exact .error (by simp)
  · exact .ok _

theorem recordOf_failsWithin (b0 b1 : Byte) : FailsWithin recordFaults (recordOf b0 b1) := by
  unfold recordOf
  split_ifs with literal empty
  · exact .ok _
  · exact .error (by simp [recordFaults])
  · exact .ok _

theorem applyRecord_failsWithin (window : Nat) (out : List Byte) (r : LzRecord) :
    FailsWithin recordFaults (applyRecord window out r) := by
  cases r with
  | literal b => exact .ok _
  | copy d l =>
    rw [applyRecord]
    split_ifs with empty far
    · exact .error (by simp [recordFaults])
    · exact .error (by simp [recordFaults])
    · exact .ok _

theorem lzDecodeFrom_failsWithin (window : Nat) : ∀ bs out : List Byte,
    FailsWithin recordFaults (lzDecodeFrom window bs out)
  | [], _ => .ok _
  | [_], _ => .error (by simp [recordFaults])
  | b0 :: b1 :: rest, out => by
    rw [lzDecodeFrom]
    split
    case h_1 c failed => exact .error (recordOf_failsWithin b0 b1 c failed)
    case h_2 =>
      split
      case h_1 c failed => exact .error (applyRecord_failsWithin _ _ _ c failed)
      case h_2 out' _ => exact lzDecodeFrom_failsWithin window rest out'

/-- A file fails to unpack as its Huffman stage or its LZ77 stage does (R321). -/
theorem unpackFile_failsWithin (c : PipeConfig) (region : List Byte) :
    FailsWithin (decodeFaults ++ recordFaults) (unpackFile p c region) := by
  unfold unpackFile
  split
  case h_1 f failed => exact .error (List.mem_append_left _ (hufDecodeStream_failsWithin region f failed))
  case h_2 s2 ts _ =>
    split
    case h_1 f failed =>
      split_ifs at failed
      exact .error (List.mem_append_right _ (lzDecodeFrom_failsWithin _ _ _ f failed))
    case h_2 => exact .ok _

end

/-! ### The faults that a command raises (R391 to R393) -/

/-- `t` is a state in which command `i` leaves `s` by a fault that R391 lists for it, with the effects that R392 or
R393 permits. -/
def ListedFault (i : Instr) (s t : State) : Prop :=
  ∃ c ∈ i.raises,
    (c.beforeInput = true ∧ FaultsWith c s t) ∨ (c.beforeInput = false ∧ FaultsOpen Params.hw i c s t)

/-- If the answer `r` of command `i` is a fault, it is a listed one. (`Ends` says that a command may fault, but not with
which codes.) -/
def FaultsListed (i : Instr) (s : State) (r : Result) : Prop :=
  ∀ t, r = .next t → t.faulted = true → ListedFault i s t

namespace FaultsListed

variable {s u : State} {i : Instr}

theorem complete (clean : u.faulted = false) : FaultsListed i s (complete u) := by
  rintro _ ⟨⟩ faulted
  exact absurd (clean.symm.trans faulted) nofun

theorem fault (clean : s.faulted = false) {c : FaultCode} (listed : c ∈ i.raises := by simp [Instr.raises])
    (before : c.beforeInput = true := by rfl) : FaultsListed i s (faultNoEffect c s) := by
  rintro _ ⟨⟩ -
  exact ⟨c, listed, .inl ⟨before, faultsWith_raise c clean⟩⟩

theorem faultOpen (clean : s.faulted = false) {c : FaultCode}
    (listed : c ∈ i.raises ∧ c.beforeInput = false := by decide) :
    FaultsListed i s (faultAfterInput Params.hw c (s.writeRanges Params.hw i) s) := by
  rintro _ ⟨⟩ -
  exact ⟨c, listed.1, .inr ⟨listed.2, faultsOpen_unspecify Params.hw i c clean⟩⟩

/-- The command faults with the code that its codec failed with. -/
theorem codecFault (clean : s.faulted = false) {α : Type} {codes : List FaultCode} {r : Except FaultCode α}
    (fails : FailsWithin codes r) {c : FaultCode} (failed : r = .error c)
    (listed : ∀ c ∈ codes, c ∈ i.raises ∧ c.beforeInput = false := by decide) :
    FaultsListed i s (faultAfterInput Params.hw c (s.writeRanges Params.hw i) s) :=
  .faultOpen clean (listed c (fails c failed))

theorem withBytes {bytes : Except Fault (List Byte)} {use : List Byte → Result}
    (h : ∀ bs, FaultsListed i s (use bs)) : FaultsListed i s (withBytes bytes use) := by
  intro t next
  obtain ⟨bs, -, used⟩ := withBytes_eq_next.mp next
  exact h bs t used

/-- An ignored or a held command raises no fault. -/
theorem of_start (clean : s.faulted = false) {body : State → Result} (h : FaultsListed i s (body s)) :
    FaultsListed i s (start Params.hw i s body) := by
  intro t next faulted
  rcases start_cases next with ⟨already, -, -⟩ | ⟨-, rfl⟩ | ⟨-, -, run⟩
  · exact absurd (clean.symm.trans already) nofun
  · exact absurd (clean.symm.trans faulted) nofun
  · exact h t run faulted

end FaultsListed

section Commands

variable {s : State} (clean : s.faulted = false)

include clean

theorem faultsListed_nop : FaultsListed .nop s (execNop s) :=
  .of_start clean (.complete clean)

theorem faultsListed_reset : FaultsListed .reset s (execReset s) :=
  .of_start clean (.complete (u := s.resetBlock) (by decide : statusFault 0 = false))

theorem faultsListed_csrWr (n : Byte) (v : Word) : FaultsListed (.csrWr n v) s (execCsrWr n v s) := by
  refine .of_start clean ?_
  split
  case h_1 => exact .fault clean
  case h_2 c _ =>
    split
    case isTrue writable => exact .complete (by rwa [State.faulted, status_writeCsr s v writable])
    case isFalse => exact .fault clean

theorem faultsListed_csrRd (n : Byte) : FaultsListed (.csrRd n) s (execCsrRd n s) := by
  refine .of_start clean ?_
  split
  case h_1 => exact .fault clean
  case h_2 => exact .complete clean

theorem faultsListed_bbPutbyte (v : Byte) : FaultsListed (.bbPutbyte v) s (bbPutbyte Params.hw v s) := by
  refine .of_start clean ?_
  dsimp only
  split_ifs with mixed full
  · exact .fault clean
  · exact .fault clean
  · exact .complete clean

theorem faultsListed_bbPutbit (a : Byte) : FaultsListed (.bbPutbit a) s (bbPutbit Params.hw a s) := by
  refine .of_start clean ?_
  dsimp only
  split_ifs with wide full last
  · exact .fault clean
  · exact .fault clean
  · exact .complete clean
  · exact .complete clean

theorem faultsListed_bbFlush : FaultsListed .bbFlush s (bbFlush Params.hw s) := by
  refine .of_start clean ?_
  dsimp only
  split_ifs with nothing full
  · exact .complete clean
  · exact .fault clean
  · exact .complete clean

theorem faultsListed_bbGetbit : FaultsListed .bbGetbit s (execBbGetbit s) := by
  refine .of_start clean ?_
  dsimp only
  split
  case h_1 => exact .fault clean
  case h_2 =>
    split_ifs with last
    · exact .complete clean
    · exact .complete clean

theorem faultsListed_bbGetbyte : FaultsListed .bbGetbyte s (execBbGetbyte s) := by
  refine .of_start clean ?_
  split
  case h_1 => exact .fault clean
  case h_2 =>
    split_ifs with mixed
    · exact .fault clean
    · exact .complete clean

theorem faultsListed_bbAvail (t : Word) : FaultsListed (.bbAvail t) s (execBbAvail t s) :=
  .of_start clean (.complete clean)

theorem faultsListed_bbClear : FaultsListed .bbClear s (execBbClear s) :=
  .of_start clean (.complete clean)

theorem faultsListed_hufEncblk : FaultsListed .hufEncblk s (hufEncblk Params.hw s) := by
  refine .of_start clean ?_
  dsimp only
  split
  case isTrue => exact .fault clean
  case isFalse =>
    split
    case isTrue => exact .fault clean
    case isFalse =>
      split
      case h_1 => exact .complete clean
      case h_2 =>
        split_ifs with long
        · exact .faultOpen clean
        · exact .complete clean

theorem faultsListed_hufDecblk : FaultsListed .hufDecblk s (hufDecblk Params.hw s) := by
  refine .of_start clean ?_
  split_ifs with maxLen
  · exact .fault clean
  · split
    case h_1 => exact .complete clean
    case h_2 =>
      split
      case h_1 c failed => exact .codecFault clean (parseBlock_failsWithin _) failed
      case h_2 => exact .complete clean

theorem faultsListed_hufEnc : FaultsListed .hufEnc s (hufEnc Params.hw s) := by
  refine .of_start clean ?_
  dsimp only
  split_ifs with size maxLen
  · exact .fault clean
  · exact .fault clean
  · split
    case h_1 c failed => exact .codecFault clean (hufEncodeStream_failsWithin _ _) failed
    case h_2 => exact .complete (by rwa [State.withLastTable_eq])

theorem faultsListed_hufDec : FaultsListed .hufDec s (hufDec Params.hw s) := by
  refine .of_start clean ?_
  dsimp only
  split_ifs with maxLen
  · exact .fault clean
  · split
    case h_1 c failed => exact .codecFault clean (hufDecodeStream_failsWithin _) failed
    case h_2 => exact .complete (by rwa [State.withLastTable_eq])

theorem faultsListed_hufTblrd (sym : Byte) (w : Word) : FaultsListed (.hufTblrd sym w) s (execHufTblrd sym w s) := by
  refine .of_start clean ?_
  split_ifs with word
  · exact .fault clean
  · split
    case h_1 => exact .complete clean
    case h_2 => exact .complete clean

theorem faultsListed_lzEnc : FaultsListed .lzEnc s (lzEnc Params.hw s) := by
  refine .of_start clean ?_
  dsimp only
  split_ifs with window maxMatch
  · exact .fault clean
  · exact .fault clean
  · exact .complete clean

theorem faultsListed_lzDec : FaultsListed .lzDec s (lzDec Params.hw s) := by
  refine .of_start clean ?_
  dsimp only
  split_ifs with window
  · exact .fault clean
  · split
    case h_1 c failed => exact .codecFault clean (lzDecodeFrom_failsWithin _ _ []) failed
    case h_2 => exact .complete clean

theorem faultsListed_lzrecPut (d : Byte) (imm : Word) : FaultsListed (.lzrecPut d imm) s (execLzrecPut d imm s) := by
  refine .of_start clean ?_
  dsimp only
  split_ifs with empty
  · exact .fault clean
  · exact .complete clean

theorem faultsListed_lzrecGet : FaultsListed .lzrecGet s (lzrecGet Params.hw s) := by
  refine .of_start clean ?_
  split
  case h_1 => exact .complete clean
  case h_2 =>
    split_ifs with empty
    · exact .faultOpen clean
    · exact .complete clean
  case h_3 => exact .faultOpen clean

theorem faultsListed_ciphEnc : FaultsListed .ciphEnc s (ciphEnc Params.hw s) :=
  .of_start clean (.complete clean)

theorem faultsListed_ciphDec : FaultsListed .ciphDec s (ciphDec Params.hw s) :=
  .of_start clean (.complete clean)

theorem faultsListed_arcBegin : FaultsListed .arcBegin s (execArcBegin s) := by
  refine .of_start clean ?_
  dsimp only
  split_ifs with flags
  · exact .fault clean
  · exact .complete (by simpa [State.faulted] using clean)

theorem faultsListed_arcPutfile : FaultsListed .arcPutfile s (arcPutfile Params.hw s) := by
  refine .of_start clean ?_
  dsimp only
  split_ifs with writing config
  · exact .fault clean
  · exact .fault clean
  · split
    case h_1 c failed => exact .codecFault clean (hufEncodeStream_failsWithin _ _) failed
    case h_2 region packed =>
      split_ifs with full
      · rw [← regionLength_of_packFile packed]
        exact .faultOpen clean (c := .arcFull)
      · exact .complete (by rwa [State.withLastTable_eq])

theorem faultsListed_arcPuttree : FaultsListed .arcPuttree s (arcPuttree Params.hw s) := by
  refine .of_start clean ?_
  dsimp only
  split_ifs with writing full
  · exact .fault clean
  · exact .faultOpen clean (c := .arcFull)
  · exact .complete (by simpa [State.faulted] using clean)

theorem faultsListed_arcLoad : FaultsListed .arcLoad s (arcLoad Params.hw s) := by
  refine .of_start clean ?_
  dsimp only
  split_ifs with full
  · exact .faultOpen clean (c := .arcFull)
  · exact .complete (by simpa [State.faulted] using clean)

theorem faultsListed_arcOpen : FaultsListed .arcOpen s (execArcOpen s) := by
  refine .of_start clean ?_
  dsimp only
  split_ifs with short
  · exact .fault clean
  · refine .withBytes fun header => ?_
    split_ifs with flagBits range
    · exact .fault clean
    · exact .fault clean
    · refine .withBytes fun field => ?_
      split_ifs with framed
      · exact .fault clean
      · exact .complete (by simpa [State.faulted] using clean)

theorem faultsListed_arcGettree : FaultsListed .arcGettree s (execArcGettree s) := by
  refine .of_start clean ?_
  dsimp only
  split_ifs with reading
  · exact .fault clean
  · exact .withBytes fun _ => .withBytes fun _ => .complete clean

theorem faultsListed_arcGetfile : FaultsListed .arcGetfile s (arcGetfile Params.hw s) := by
  refine .of_start clean ?_
  dsimp only
  split_ifs with reading maxLen window range
  · exact .fault clean
  · exact .fault clean
  · exact .fault clean
  · exact .fault clean
  · refine .withBytes fun region => ?_
    split
    case h_1 c failed => exact .codecFault clean (unpackFile_failsWithin _ _) failed
    case h_2 =>
      split_ifs with size
      · exact .faultOpen clean (c := .arcSizeMismatch)
      · exact .complete (by simpa [State.faulted, apply_ite statusFault] using clean)

theorem faultsListed_arcDump : FaultsListed .arcDump s (execArcDump s) :=
  .of_start clean (.withBytes fun _ => .complete clean)

/-- Every command, from every state without a fault, raises only the faults that R391 lists for it. -/
theorem exec_faultsListed (i : Instr) : FaultsListed i s (exec i s) := by
  cases i with
  | nop => exact faultsListed_nop clean
  | reset => exact faultsListed_reset clean
  | csrWr n v => exact faultsListed_csrWr clean n v
  | csrRd n => exact faultsListed_csrRd clean n
  | bbPutbyte v => exact faultsListed_bbPutbyte clean v
  | bbPutbit a => exact faultsListed_bbPutbit clean a
  | bbFlush => exact faultsListed_bbFlush clean
  | bbGetbit => exact faultsListed_bbGetbit clean
  | bbGetbyte => exact faultsListed_bbGetbyte clean
  | bbAvail t => exact faultsListed_bbAvail clean t
  | bbClear => exact faultsListed_bbClear clean
  | hufEncblk => exact faultsListed_hufEncblk clean
  | hufDecblk => exact faultsListed_hufDecblk clean
  | hufEnc => exact faultsListed_hufEnc clean
  | hufDec => exact faultsListed_hufDec clean
  | hufTblrd sym w => exact faultsListed_hufTblrd clean sym w
  | lzEnc => exact faultsListed_lzEnc clean
  | lzDec => exact faultsListed_lzDec clean
  | lzrecPut d imm => exact faultsListed_lzrecPut clean d imm
  | lzrecGet => exact faultsListed_lzrecGet clean
  | ciphEnc => exact faultsListed_ciphEnc clean
  | ciphDec => exact faultsListed_ciphDec clean
  | arcBegin => exact faultsListed_arcBegin clean
  | arcPutfile => exact faultsListed_arcPutfile clean
  | arcPuttree => exact faultsListed_arcPuttree clean
  | arcLoad => exact faultsListed_arcLoad clean
  | arcOpen => exact faultsListed_arcOpen clean
  | arcGettree => exact faultsListed_arcGettree clean
  | arcGetfile => exact faultsListed_arcGetfile clean
  | arcDump => exact faultsListed_arcDump clean

end Commands

/-- Settles O12: the walk through every command's rule, with the codes its codecs fail with, is `exec_faultsListed`. -/
theorem faultEffects : Obligations.FaultEffects :=
  fun i _ t clean run faulted => exec_faultsListed clean i t run faulted

end Sys2Proof.Machine
